-- ==== Sys2Proof/Word.lean ====
section
/-! DEFINITION. The words of the two blocks and their plainest arithmetic (spec/00_scope.md R9, R10, R14). -/

namespace Sys2Proof

/-- An 8-bit value: gate-array latches, `kb_matrix`, a ROM byte. -/
abbrev Byte := BitVec 8

/-- A 16-bit value: every Bridge latch and data port, the keyboard data port. -/
abbrev Half := BitVec 16

/-- A full sample-ROM byte address, 32 lines (R62). -/
abbrev Addr := BitVec 32

/-- A transaction word of 24 bits: `op` in bits 23:16, `data` in bits 15:0 (R91). -/
abbrev TWord := BitVec 24

/-- Instants and durations, in seconds: exact rationals, a totally ordered set with addition (R14). -/
abbrev Time := Rat

end Sys2Proof
end

