-- ==== Sys2Proof/Syntax.lean ====
section
/-! DEFINITION. The operations: one constructor per row of spec/opcode_table.json (spec/30_encoding.md R90, R95), the agents
that issue them (R8), their formats (R92) and the pseudo-operations of R102. -/

namespace Sys2Proof

/-- One operation: a port access of an outside agent or a timer event (R90, R95). -/
inductive Instr where
  /-- The arcade host reads the status port (R121). -/
  | hStatusRd
  /-- The arcade host writes the register-select port (R122). -/
  | hRegWr (value : Half)
  /-- The arcade host writes the data port (R123). -/
  | hDataWr (value : Half)
  /-- The core reads the register-select latch (R151). -/
  | cRegRd
  /-- The core reads the data latch and acknowledges it (R152). -/
  | cDataRd
  /-- The core reads the pending line (R153). -/
  | cPendRd
  /-- The core reads the sample-ROM byte under the cursor (R154). -/
  | cRomRd
  /-- The core sets the ROM offset (R155). -/
  | cRomaddrWr (value : Half)
  /-- The core sets the ROM page (R156). -/
  | cRombankWr (value : Half)
  /-- The core latches the left output sample (R157). -/
  | cLeftWr (value : Half)
  /-- The core latches the right output sample (R158). -/
  | cRightWr (value : Half)
  /-- The handheld host writes gate-array latch 0 (R192). -/
  | gaWr0 (value : Byte)
  /-- The handheld host writes gate-array latch 1 (R193). -/
  | gaWr1 (value : Byte)
  /-- The handheld host writes the keyboard-matrix control register (R201). -/
  | kbmWr (value : Byte)
  /-- The handheld host reads the keyboard data port (R207). -/
  | kbRd
  /-- The handheld host reads one byte through the shared bank window (R194). -/
  | bankRd (off : Half)
  /-- The register-select cell fires (R124). -/
  | evRegSync
  /-- The data cell fires (R125). -/
  | evDataSync
  /-- The core reset-hold timer expires (R263). -/
  | evResetRelease
  /-- One output frame is sampled (R181). -/
  | evFrame
  /-- The keyboard scan timer expires (R210). -/
  | evKbTick
  /-- The platform starts or resets the device (R261, R262). -/
  | evDeviceReset
deriving DecidableEq, Repr

/-- The agents (R8). -/
inductive Agent where
  | hostA
  | core
  | syncReg
  | syncData
  | resetTimer
  | frameClock
  | hostB
  | kbTimer
  | env
deriving DecidableEq, Repr

/-- The transaction formats (R92): `w16`, `w8`, `r` (read without operand), `ro` (read at an offset), `e` (event). -/
inductive Format where
  | w16
  | w8
  | r
  | ro
  | e
deriving DecidableEq, Repr

/-- The pseudo-operations that encode as their expansions (R102). -/
inductive Pseudo where
  /-- `GA_WR s, v` -/
  | gaWr (slot : Fin 2) (value : Byte)
  /-- `GEN n` -/
  | gen (n : Nat)
  /-- `H_WRITE r, v` -/
  | hWrite (r v : Half)
  /-- `C_ROM_AT b, a` -/
  | cRomAt (b a : Half)
deriving DecidableEq, Repr

/-- A line of the trace syntax (R101): an operation or a pseudo-operation, with its instant where the line states one, or
`WAIT t` (R102). -/
inductive Line where
  | op (instant : Option Time) (i : Instr)
  | pseudo (instant : Option Time) (p : Pseudo)
  | wait (t : Time)
deriving DecidableEq, Repr

end Sys2Proof
end

