-- ==== Sys2Proof/Decode.lean ====
section
/-! DEFINITION. The decoder, total on 24-bit words, and after it the encoder and the expansion of pseudo-operations, all from
the operation map of spec/30_encoding.md (R91 to R97, R100 to R103). -/

namespace Sys2Proof

/-- Why a word has no operation. -/
inductive DecodeError where
  /-- The `op` field is not in the map of R95; it is carried along (R103). -/
  | reserved (op : Byte)
deriving DecidableEq, Repr

/-- `op = w[23:16]` (R91). -/
def opField (w : TWord) : Byte := w.extractLsb' 16 8

/-- `data = w[15:0]` (R91). -/
def dataField (w : TWord) : Half := w.extractLsb' 0 16

/-- Operand assembly of format `W16`: all 16 bits (R93). -/
def w16Operand (data : Half) : Half := data &&& 0xFFFF#16

/-- Operand assembly of format `W8`: the high byte of `data` is discarded (R93). -/
def w8Operand (data : Half) : Byte := data.extractLsb' 0 8

/-- Operand assembly of format `RO`: an unsigned 16-bit offset (R93). -/
def roOperand (data : Half) : Half := data

/-- Decoding looks the `op` field up in the map of R95; no state takes part (R96). -/
def decode (w : TWord) : Except DecodeError Instr :=
  let data := dataField w
  match opField w with
  | 0x00#8 => .ok .hStatusRd
  | 0x01#8 => .ok (.hRegWr (w16Operand data))
  | 0x02#8 => .ok (.hDataWr (w16Operand data))
  | 0x10#8 => .ok .cRegRd
  | 0x11#8 => .ok .cDataRd
  | 0x12#8 => .ok .cPendRd
  | 0x13#8 => .ok .cRomRd
  | 0x14#8 => .ok (.cRomaddrWr (w16Operand data))
  | 0x15#8 => .ok (.cRombankWr (w16Operand data))
  | 0x16#8 => .ok (.cLeftWr (w16Operand data))
  | 0x17#8 => .ok (.cRightWr (w16Operand data))
  | 0x20#8 => .ok (.gaWr0 (w8Operand data))
  | 0x21#8 => .ok (.gaWr1 (w8Operand data))
  | 0x22#8 => .ok (.kbmWr (w8Operand data))
  | 0x23#8 => .ok .kbRd
  | 0x24#8 => .ok (.bankRd (roOperand data))
  | 0x30#8 => .ok .evRegSync
  | 0x31#8 => .ok .evDataSync
  | 0x32#8 => .ok .evResetRelease
  | 0x33#8 => .ok .evFrame
  | 0x34#8 => .ok .evKbTick
  | 0x3F#8 => .ok .evDeviceReset
  | op => .error (.reserved op)

/-- The operation number of each row (R95). -/
def opNumber : Instr → Byte
  | .hStatusRd => 0x00#8
  | .hRegWr _ => 0x01#8
  | .hDataWr _ => 0x02#8
  | .cRegRd => 0x10#8
  | .cDataRd => 0x11#8
  | .cPendRd => 0x12#8
  | .cRomRd => 0x13#8
  | .cRomaddrWr _ => 0x14#8
  | .cRombankWr _ => 0x15#8
  | .cLeftWr _ => 0x16#8
  | .cRightWr _ => 0x17#8
  | .gaWr0 _ => 0x20#8
  | .gaWr1 _ => 0x21#8
  | .kbmWr _ => 0x22#8
  | .kbRd => 0x23#8
  | .bankRd _ => 0x24#8
  | .evRegSync => 0x30#8
  | .evDataSync => 0x31#8
  | .evResetRelease => 0x32#8
  | .evFrame => 0x33#8
  | .evKbTick => 0x34#8
  | .evDeviceReset => 0x3F#8

/-- The format of each row (R95). -/
def formatOf : Instr → Format
  | .hRegWr _ | .hDataWr _ | .cRomaddrWr _ | .cRombankWr _ | .cLeftWr _ | .cRightWr _ => .w16
  | .gaWr0 _ | .gaWr1 _ | .kbmWr _ => .w8
  | .hStatusRd | .cRegRd | .cDataRd | .cPendRd | .cRomRd | .kbRd => .r
  | .bankRd _ => .ro
  | .evRegSync | .evDataSync | .evResetRelease | .evFrame | .evKbTick | .evDeviceReset => .e

/-- The agent each operation belongs to (R8). -/
def agentOf : Instr → Agent
  | .hStatusRd | .hRegWr _ | .hDataWr _ => .hostA
  | .cRegRd | .cDataRd | .cPendRd | .cRomRd | .cRomaddrWr _ | .cRombankWr _ | .cLeftWr _ | .cRightWr _ => .core
  | .gaWr0 _ | .gaWr1 _ | .kbmWr _ | .kbRd | .bankRd _ => .hostB
  | .evRegSync => .syncReg
  | .evDataSync => .syncData
  | .evResetRelease => .resetTimer
  | .evFrame => .frameClock
  | .evKbTick => .kbTimer
  | .evDeviceReset => .env

/-- The interface class of an agent's operations, `op[7:4]` (R94). -/
def interfaceClass : Agent → BitVec 4
  | .hostA => 0
  | .core => 1
  | .hostB => 2
  | .syncReg | .syncData | .resetTimer | .frameClock | .kbTimer | .env => 3

/-- The bits of a word a format gives a meaning to; the rest are ignored (R92). -/
def significantBits : Format → TWord
  | .w16 | .ro => 0xFFFFFF#24
  | .w8 => 0xFF00FF#24
  | .r | .e => 0xFF0000#24

/-- The `data` field of the canonical encoding: ignored bits are zero (R92). -/
def dataOf : Instr → Half
  | .hRegWr v | .hDataWr v | .cRomaddrWr v | .cRombankWr v | .cLeftWr v | .cRightWr v => v
  | .gaWr0 v | .gaWr1 v | .kbmWr v => v.setWidth 16
  | .bankRd off => off
  | .hStatusRd | .cRegRd | .cDataRd | .cPendRd | .cRomRd | .kbRd => 0#16
  | .evRegSync | .evDataSync | .evResetRelease | .evFrame | .evKbTick | .evDeviceReset => 0#16

/-- The canonical transaction word of an operation (R91, R92, R95). -/
def encode (i : Instr) : TWord := opNumber i ++ dataOf i

/-- What a pseudo-operation stands for (R102). -/
def Pseudo.expand : Pseudo → List Instr
  | .gaWr slot v => if slot = 0 then [.gaWr0 v] else [.gaWr1 v]
  | .gen n => List.replicate n .evFrame
  | .hWrite r v => [.hRegWr r, .hDataWr v]
  | .cRomAt b a => [.cRombankWr b, .cRomaddrWr a, .cRomRd]

/-- The one word of a table row's instruction: bit 0 is the word's least significant bit, bits above `nbits` are 0. -/
def tableWord (nbits w : Nat) : TWord := BitVec.ofNat 24 (w % 2 ^ nbits)

/-- What the decoder reads from an instruction numbered as spec/opcode_table.json numbers it: every operation is one 24-bit
word (R100), so a number that does not fit in 24 bits is none. -/
def decodeTableWord (nbits w : Nat) : Option Instr :=
  if w % 2 ^ nbits < 2 ^ 24 then
    match decode (tableWord nbits w) with
    | .ok i => some i
    | .error _ => none
  else none

end Sys2Proof
end

