-- ==== Sys2Proof/Config.lean ====
section
/-! DEFINITION. The implementation parameters of spec/00_scope.md R7.
A parameter the spec leaves OPEN is a constant with no body, so that nothing can be proved of its value and a claim holds for
every value; a parameter to which R7 gives a value has that value here. -/

namespace Sys2Proof

/-- The two keyboard-layout variants, one per build (R208). -/
inductive KbVariant where
  | v13
  | v12
deriving DecidableEq, Repr, Inhabited

/-- The three scan rates of the keyboard timer (R42, R203). -/
inductive ScanRate where
  | slow
  | fast
  | active
deriving DecidableEq, Repr, Inhabited

/-- When the completion callback `ready` is emitted (R234). -/
inductive ReadyPolicy where
  | onConsume
  | onResetRelease
  | never
deriving DecidableEq, Repr, Inhabited

/-- OPEN. Any rational; `syncDelay` takes the positive ones from it. -/
opaque Config.syncDelayRaw : Time

/-- `SYNC_DELAY`, OPEN and strictly positive (R7, R76): every positive rational is a possible value. -/
def Config.syncDelay : Time := if 0 < Config.syncDelayRaw then Config.syncDelayRaw else 1

/-- OPEN. Any rational; `resetHoldTime` takes the positive ones from it. -/
opaque Config.resetHoldRaw : Time

/-- `RESET_HOLD_TIME`, OPEN and strictly positive (R7, R263). -/
def Config.resetHoldTime : Time := if 0 < Config.resetHoldRaw then Config.resetHoldRaw else 1

/-- OPEN. Any rational; `framePeriod` takes the positive ones from it. -/
opaque Config.framePeriodRaw : Time

/-- `FRAME_PERIOD`, OPEN and strictly positive: the period of the frame clock, which is an external consumer's and no timer of
the block (R7, R184, R241). -/
def Config.framePeriod : Time := if 0 < Config.framePeriodRaw then Config.framePeriodRaw else 1

/-- OPEN. The first frame instant of the consumer's frame clock, or none where frames come on request (R98, R182; log entry 9). -/
opaque Config.frameStart : Option Time

/-- OPEN. The time a trace leaves before its `k`-th line where the line states no instant; any rational, from which `freeGap`
takes the possible ones (R101; log entry 3). -/
opaque Config.lineGapRaw (k : Nat) : Time

/-- How the core widens the ROM byte onto its own data path (R154 c). -/
inductive RomReadExtend where
  | none
  | zero
  | sign
deriving DecidableEq, Repr, Inhabited

/-- `ROM_READ_EXTEND`, OPEN: it belongs to the core's side, and the block itself returns 8 bits (R7, R154, D7). -/
opaque Config.romReadExtend : RomReadExtend

/-- `Rom`, OPEN: the content of the sample ROM, a total function, constant for the life of the model (R63). -/
opaque Config.rom : Addr → Byte

/-- `STATUS_READY_IS_1`, decided true (R29, D4). -/
def Config.statusReadyIs1 : Bool := true

/-- `READY_POLICY`, decided `on_consume` (R7, R234, D11). -/
def Config.readyPolicy : ReadyPolicy := .onConsume

/-- `KB_VARIANT`, OPEN, one per build (R7). -/
opaque Config.kbVariant : KbVariant

/-- OPEN. Which of the four selectors 12..15 is the "all rows" selector of variant `V12` (R208). -/
opaque Config.kbSentinelV12 : Fin 4

/-- `F_SLOW` in Hz (R7). -/
def Config.fSlow : Nat := 32

/-- `F_FAST` in Hz (R7). -/
def Config.fFast : Nat := 256

/-- `F_ACTIVE` in Hz (R7, D13). -/
def Config.fActive : Nat := 192

/-- `CARD1_VALID`, OPEN, fixed per build (R191, D18). -/
opaque Config.card1Valid : Bool

/-- `CARD2_VALID`, OPEN, fixed per build (R191, D18). -/
opaque Config.card2Valid : Bool

/-- `RegionInternal`, OPEN: total on window offsets (R67). -/
opaque Config.regionInternal : Half → Byte

/-- `RegionCard1`, OPEN (R67). -/
opaque Config.regionCard1 : Half → Byte

/-- `RegionCard2`, OPEN (R67). -/
opaque Config.regionCard2 : Half → Byte

/-- OPEN. The last offset inside the shared bank window. -/
opaque Config.bankWindowLast : Fin 65536

/-- `BANK_WINDOW_SIZE` in bytes, OPEN: 1 to 65536 (R7; at least one byte is log entry 8). -/
def Config.bankWindowSize : Nat := Config.bankWindowLast.val + 1

/-- `KB_TIMER_RESET_STATE`, OPEN: `none` is `Disarmed`, `some rate` is `Armed(rate)` (R42, R262, D12). -/
opaque Config.kbTimerResetState : Option ScanRate

end Sys2Proof
end

