-- ==== Sys2Proof/Machine/Operands.lean ====
section
/-! DEFINITION. Values an operation computes from its operands and from the latches, apart from any state: the sample value, the
ROM address, the scan periods, the row count and the sentinel, the digitizer buckets. -/

namespace Sys2Proof.Machine

/-- The two's-complement reading of a 16-bit value (R10, G7). -/
def signed16 (v : Half) : Int := if v.toNat < 0x8000 then (v.toNat : Int) else (v.toNat : Int) - 0x10000

/-- The full ROM byte address: bank shifted left by 16, OR offset (R62, D6). -/
def romFullAddress (bank offset : Half) : Addr := (bank.setWidth 32 <<< 16) ||| offset.setWidth 32

/-- The ROM byte on the core's own 16-bit data path, if the core widens it (R154 c). Outside the block: `C_ROM_RD` returns the
byte itself. -/
def romByteOnCoreBus (x : RomReadExtend) (b : Byte) : Option Half :=
  match x with
  | .none => none
  | .zero => some (b.setWidth 16)
  | .sign => some (b.signExtend 16)

/-- A scan rate in Hz (R203). -/
def rateHz : ScanRate → Nat
  | .slow => Config.fSlow
  | .fast => Config.fFast
  | .active => Config.fActive

/-- `period(f)` is `1/f` seconds exactly (R14). -/
def period (r : ScanRate) : Time := 1 / (rateHz r : Time)

/-- A free amount of time before the `k`-th line of a trace: every amount from 0 on is possible, every positive one where it
must be positive (log entry 3). -/
def freeGap (mustBePositive : Bool) (k : Nat) : Time :=
  if 0 < Config.lineGapRaw k then Config.lineGapRaw k else if mustBePositive then 1 else 0

/-- `N_ROWS` of a variant (R208). -/
def nRows : KbVariant → Nat
  | .v13 => 13
  | .v12 => 12

/-- `KB_SENTINEL` of a variant: 13 for `V13`; for `V12` one of 12..15, the parameter `v12` (R208). -/
def kbSentinel (v12 : Fin 4) : KbVariant → BitVec 4
  | .v13 => 13#4
  | .v12 => BitVec.ofNat 4 (12 + v12.val)

/-- A coordinate quantised to 0..3 by a right shift of `TS_SHIFT = 6` (R206). -/
def tsBucket (coordinate : Byte) : Nat := (coordinate >>> 6).toNat

/-- The digitizer bit of a Y bucket: `TS_BASE_BIT << yb`, 16 bits (R206). -/
def tsBit (yb : Nat) : Half := 0x1000#16 <<< yb

end Sys2Proof.Machine
end

