-- ==== Sys2Proof/Machine/State.lean ====
section
/-! DEFINITION. The state of the machine (spec/10_state.md R20 to R47): the Bridge, the Controller, and what stands around
them in this model (the clock, the input pins, the operations still to come, what was returned and emitted). -/

namespace Sys2Proof.Machine

/-- Why the machine has no move. The hardware itself has no faults (R230): each constructor says that the run so far cannot be
continued as a trace of the hardware. -/
inductive Fault where
  /-- A core operation while `core_reset = 1`, raised by the meanings of the eight `C_*` operations: stuck, not a trace of the
  hardware (R264, U22). Safe: the model stops. -/
  | coreHeldInReset
  /-- An event operation in a state or at an instant where it is not enabled, raised by the meanings of the four timer events,
  and by the fetch for an event line at another instant than its due one: not a trace of the hardware (R98). Safe: the model
  stops. -/
  | eventNotEnabled
  /-- A line for a bus that has carried an operation at the line's instant already, raised by the fetch: two bus operations
  never share an instant on one bus (R80). Safe: the model stops. -/
  | busInUse
  /-- A trace line whose stated instant lies before the present one, raised by the fetch: instants never decrease (R14).
  Safe: the model stops. -/
  | instantInPast
  /-- No operation is pending and no timer is armed, raised by the fetch: nothing happens until an outside agent acts.
  Safe: the model stops. -/
  | noOperation
deriving DecidableEq, Repr

/-- Why the machine gives an operation no meaning. -/
inductive Refusal where
  /-- An instruction without a meaning in this model, raised by `exec`'s arm for it; no arm uses it. Safe. -/
  | notModelled (mnemonic : String)
  /-- A reserved word, raised by `step`: it names no port of the hardware (R103, U10). Safe: the model stops. -/
  | reservedWord (op : Byte)
  /-- `BANK_RD` at or beyond `BANK_WINDOW_SIZE`, raised by its meaning: not an access to this block (R105, U11). Safe. -/
  | outsideBankWindow (off : Half)
deriving DecidableEq, Repr

/-- A full deferred-write cell, `some(value, due, seq)` (R33). -/
structure Cell where
  value : Half
  due : Time
  seq : Nat
deriving DecidableEq, Repr

/-- The Wavetable Chip Bridge (R21, R33 to R36). -/
structure Bridge where
  registerSelect : Half
  writeData : Half
  writePending : Bool
  romAddress : Half
  romBank : Half
  leftData : Half
  rightData : Half
  regCell : Option Cell
  dataCell : Option Cell
  nextSeq : Nat
  coreReset : Bool
  resetTimer : Option Time
deriving DecidableEq, Repr

/-- The recurring scan timer (R42). -/
inductive KbTimer where
  | disarmed
  | armed (rate : ScanRate) (next : Time)
deriving DecidableEq, Repr

/-- Which region the shared bank window aliases (R41). -/
inductive BankSel where
  | internal
  | card1
  | card2
deriving DecidableEq, Repr

/-- The Handheld Bank/Keyboard Controller (R38 to R42). -/
structure Controller where
  kbMatrix : Byte
  gateArray0 : Byte
  gateArray1 : Byte
  bankSel : BankSel
  kbTimer : KbTimer
deriving DecidableEq, Repr

/-- The values at the Controller's input pins (R205): the word of every matrix row and the digitizer reading. -/
structure Pins where
  rows : Vector Half 16
  tsX : Byte
  tsY : Byte
  tsContact : Bool
deriving DecidableEq, Repr, Inhabited

/-- What a read operation returns to the agent that issued it (R16, R72). -/
inductive Reply where
  | word (v : Half)
  | byte (v : Byte)
  | bit (v : Bool)
deriving DecidableEq, Repr

/-- An output event (R15, R231, R181). -/
inductive Output where
  | frame (left right : Int)
  | keyIntPulse
  | ready
deriving DecidableEq, Repr

/-- The consumer's frame clock (R8, R98): frames on request, at any instant (R182), or running, the next frame due at `next`
(R181). It is an outside agent's state, no timer of the block (R241). -/
inductive FrameClock where
  | onRequest
  | running (next : Time)
deriving DecidableEq, Repr

/-- When a line of a trace takes place (R101, R102). `base` is an instant the trace states, else that of the line before, the
field `LineClock.last`. -/
inductive When where
  /-- At `base` plus `wait`: a stated instant, or the line after `WAIT`. -/
  | exactly (base : Option Time) (wait : Time)
  /-- No instant is stated: a timer event at its due instant, anything else at a free instant no earlier than `base` plus
  `wait` (log entry 3). -/
  | later (base : Option Time) (wait : Time)
  /-- At the present instant, a timer event at its due one: the frames of one request after the first (R182), and the word the
  host places with `State.withFetchWord` (log entry 2). -/
  | atOnce
deriving DecidableEq, Repr

/-- One line of a trace: when it takes place, its transaction word, and what stands at the input pins then (R46). -/
structure Transaction where
  when : When
  word : TWord
  pins : Pins
deriving DecidableEq, Repr

/-- An address in one of the two read-only spaces (R12, R60). -/
inductive MemAddress where
  | rom (a : Addr)
  | bank (off : Half)
deriving DecidableEq, Repr

/-- Where a trace stands: the instant of its last line, when each of the three buses was last used, and how many lines were
taken, which numbers the free instants (R80, R102). DESIGN CHOICE, where R102 does not say which instant is "the previous line's":
`last` is that of the last operation taken, so that after a pseudo-operation of several (`H_WRITE`, `C_ROM_AT`, `GEN n`) `WAIT`
counts from the last operation of its expansion, and of a trace without a line yet it is 0, the power-up instant
(log entry 19). -/
structure LineClock where
  last : Time
  hostA : Option Time
  core : Option Time
  hostB : Option Time
  taken : Nat
deriving DecidableEq, Repr

/-- The whole machine. `bridge` and `controller` are the hardware's state; the other fields are the model's own: `now` is the
instant of the operation being executed (R14), `pins` the inputs at that instant (R46), `frameClock` the frame clock of the
stream's consumer (R98), `lines` where the trace stands (R80, R102), `pending` the operations the outside
agents have still to issue, in order (R8, R75), `reply` what the last operation returned (R16), `outputs` the trace of output
events, oldest first (R15). -/
structure State where
  bridge : Bridge
  controller : Controller
  now : Time
  pins : Pins
  frameClock : FrameClock
  lines : LineClock
  pending : List Transaction
  reply : Option Reply
  outputs : List Output
deriving DecidableEq, Repr

abbrev Result := Host.Outcome State Fault Refusal

/-- What stands at the input pins before the first operation: OPEN, no value is given (R46, U13). -/
opaque pinsAtStart : Pins

/-- The frame clock at power-up: OPEN, on request or running with any first frame after instant 0 (R98, R184; log entry 9). -/
def frameClockAtStart (start : Option Time) : FrameClock :=
  match start with
  | none => .onRequest
  | some t => .running (if 0 < t then t else Config.framePeriod)

/-- The state at power-up: the reset table R47 at instant 0, nothing pending, nothing emitted. DESIGN CHOICE: a `WAIT` before
the first line of a trace, where there is no previous line, counts from instant 0, the value of `lines.last` (log entry 19). -/
def State.reset : State where
  bridge :=
    { registerSelect := 0x0000#16
      writeData := 0x0000#16
      writePending := false
      romAddress := 0x0000#16
      romBank := 0x0000#16
      leftData := 0x0000#16
      rightData := 0x0000#16
      regCell := none
      dataCell := none
      nextSeq := 0
      coreReset := true
      resetTimer := some (0 + Config.resetHoldTime) }
  controller :=
    { kbMatrix := 0x00#8
      gateArray0 := 0x00#8
      gateArray1 := 0x00#8
      bankSel := .internal
      kbTimer :=
        match Config.kbTimerResetState with
        | none => .disarmed
        | some rate => .armed rate (0 + period rate) }
  now := 0
  pins := pinsAtStart
  frameClock := frameClockAtStart Config.frameStart
  lines := { last := 0, hostA := none, core := none, hostB := none, taken := 0 }
  pending := []
  reply := none
  outputs := []

end Sys2Proof.Machine
end

