-- ==== Sys2Proof/Machine/Flags.lean ====
section
/-! DEFINITION. The one status flag, `write_pending`, and its views: the status port, the pending line (spec/10_state.md R25,
R29; spec/60_exceptions.md R232), and the fields of `kb_matrix` (R38). -/

namespace Sys2Proof.Machine

/-- The status word: bit 0 is READY under polarity `readyIs1`, bits 15:1 are 0 (R29, R121). -/
def statusWord (readyIs1 pending : Bool) : Half :=
  let bit := if readyIs1 then !pending else pending
  if bit then 0x0001#16 else 0x0000#16

/-- The status port view of the Bridge (R29). -/
def Bridge.status (b : Bridge) : Half := statusWord Config.statusReadyIs1 b.writePending

/-- The pending line to the core: a level equal to `write_pending` (R232). -/
def Bridge.pendingLine (b : Bridge) : Bool := b.writePending

/-- Delivery sets the flag (R25). -/
def Bridge.setPending (b : Bridge) : Bridge := { b with writePending := true }

/-- The core's read clears the flag (R25). -/
def Bridge.clearPending (b : Bridge) : Bridge := { b with writePending := false }

/-- `SCAN_OFF`, bit 7 of `kb_matrix` (R38). -/
def scanOff (m : Byte) : Bool := m.getLsbD 7

/-- `SLOW`, bit 6 of `kb_matrix` (R38). -/
def slowBit (m : Byte) : Bool := m.getLsbD 6

/-- `ROW_SEL`, bits 3:0 of `kb_matrix` (R38). -/
def rowSel (m : Byte) : BitVec 4 := m.extractLsb' 0 4

end Sys2Proof.Machine
end

