-- ==== Sys2Proof/Machine/Ops.lean ====
section
/-! DEFINITION. The named operations the meanings are made of: updates of the state, the deferred-write cells, the two memory
reads, the core's access under its reset line, output events, and device reset.
The block takes no exception and returns from none (spec/60_exceptions.md R230, R237, R238), so none stands here; what it has
in their place are the output events of R231, raised by `State.emit`. -/

namespace Sys2Proof.Machine

def State.putBridge (s : State) (b : Bridge) : State := { s with bridge := b }

def State.putController (s : State) (c : Controller) : State := { s with controller := c }

/-- Time passes to `t`. -/
def State.advanceTo (s : State) (t : Time) : State := { s with now := t }

/-- A pending word is taken: its inputs stand at the pins and the rest stays pending. -/
def State.present (s : State) (pins : Pins) (rest : List Transaction) : State :=
  { s with pins := pins, pending := rest }

/-- When an agent's bus last carried an operation; the agents inside the block and those without a bus have none (R80). -/
def LineClock.lastUse (l : LineClock) : Agent → Option Time
  | .hostA => l.hostA
  | .core => l.core
  | .hostB => l.hostB
  | .syncReg | .syncData | .resetTimer | .frameClock | .kbTimer | .env => none

/-- A line of agent `a` is taken at `t`, and `WAIT` counts from here: DESIGN CHOICE that it counts from the last operation of a
pseudo-operation, each operation of which is taken as a line (log entry 19). -/
def LineClock.take (l : LineClock) (a : Agent) (t : Time) : LineClock where
  last := t
  hostA := if a = .hostA then some t else l.hostA
  core := if a = .core then some t else l.core
  hostB := if a = .hostB then some t else l.hostB
  taken := l.taken + 1

/-- The trace has had a line of agent `a` at `t`. -/
def State.takeLine (s : State) (a : Agent) (t : Time) : State := { s with lines := s.lines.take a t }

def State.putFrameClock (s : State) (c : FrameClock) : State := { s with frameClock := c }

/-- A frame of a running clock puts the next one `FRAME_PERIOD` on (R181, R98). -/
def FrameClock.tick : FrameClock → FrameClock
  | .onRequest => .onRequest
  | .running next => .running (next + Config.framePeriod)

/-- A read returns `r` to its agent (R16). -/
def State.answer (s : State) (r : Reply) : State := { s with reply := some r }

/-- A write or an event returns nothing (R16). -/
def State.silent (s : State) : State := { s with reply := none }

/-- `emit o` (R15). -/
def State.emit (s : State) (o : Output) : State := { s with outputs := s.outputs ++ [o] }

/-- `emit ready` where the policy in force is `p` and `happened` (R234). -/
def State.emitReady (s : State) (p : ReadyPolicy) (happened : Bool) : State :=
  if Config.readyPolicy = p ∧ happened = true then s.emit .ready else s

/-- `some(value, now + SYNC_DELAY, next_seq)` (R122, R123). -/
def scheduledCell (b : Bridge) (v : Half) (now : Time) : Cell := ⟨v, now + Config.syncDelay, b.nextSeq⟩

/-- A register-select write is captured in its cell, replacing what the cell held (R122, R78). -/
def Bridge.captureReg (b : Bridge) (v : Half) (now : Time) : Bridge :=
  { b with regCell := some (scheduledCell b v now), nextSeq := b.nextSeq + 1 }

/-- A data write is captured in its cell, replacing what the cell held (R123, R78). -/
def Bridge.captureData (b : Bridge) (v : Half) (now : Time) : Bridge :=
  { b with dataCell := some (scheduledCell b v now), nextSeq := b.nextSeq + 1 }

/-- The register-select cell delivers (R124). -/
def Bridge.deliverReg (b : Bridge) (v : Half) : Bridge := { b with registerSelect := v, regCell := none }

/-- The data cell delivers and raises the flag (R125). -/
def Bridge.deliverData (b : Bridge) (v : Half) : Bridge :=
  { b.setPending with writeData := v, dataCell := none }

/-- A full cell fires exactly at its due instant, and not before another cell due at the same instant with a lower `seq`
(R98, R80). -/
def cellFires (c : Cell) (other : Option Cell) (now : Time) : Bool :=
  decide (c.due = now) &&
    match other with
    | none => true
    | some o => !(decide (o.due = now) && decide (o.seq < c.seq))

/-- `MemRead(space, addr, 1)` (R12): the ROM (R63) and the bank window under a selection (R67). -/
def memRead (sel : BankSel) : MemAddress → Byte
  | .rom a => Config.rom a
  | .bank off =>
    match sel with
    | .internal => Config.regionInternal off
    | .card1 => Config.regionCard1 off
    | .card2 => Config.regionCard2 off

/-- The core issues an operation only while its reset line is released (R99, R264, D27). -/
def coreAccess (s : State) (act : State → State) : Result :=
  if s.bridge.coreReset then .fault .coreHeldInReset else .next (act s)

/-- A 16-bit write of the core: immediate, masked by the operand's width (R72, R150). -/
def coreWrite (s : State) (write : Bridge → Bridge) : Result :=
  coreAccess s fun s => (s.putBridge (write s.bridge)).silent

/-- Device reset, Bridge part (R261). -/
def Bridge.deviceReset (now : Time) : Bridge :=
  { registerSelect := 0x0000#16
    writeData := 0x0000#16
    writePending := false
    romAddress := 0x0000#16
    romBank := 0x0000#16
    leftData := 0x0000#16
    rightData := 0x0000#16
    regCell := none
    dataCell := none
    nextSeq := 0
    coreReset := true
    resetTimer := some (now + Config.resetHoldTime) }

/-- `KB_TIMER_RESET_STATE` at instant `now`: if armed, the first tick is one period later (R262). -/
def kbTimerAtReset (state : Option ScanRate) (now : Time) : KbTimer :=
  match state with
  | none => .disarmed
  | some rate => .armed rate (now + period rate)

/-- Device reset, Controller part (R262). -/
def Controller.deviceReset (now : Time) : Controller :=
  { kbMatrix := 0x00#8
    gateArray0 := 0x00#8
    gateArray1 := 0x00#8
    bankSel := .internal
    kbTimer := kbTimerAtReset Config.kbTimerResetState now }

end Sys2Proof.Machine
end

