-- ==== Sys2Proof/Machine/AudioSampler.lean ====
section
/-! DEFINITION. The stereo output sampler (spec/42_audio_sampler.md). -/

namespace Sys2Proof.Machine

/-- `EV_FRAME` (R181): both latches are emitted as they stand, and stay; a running frame clock goes on. It is enabled always;
that the frames of a running clock come `FRAME_PERIOD` apart is the fetch's business (R98). -/
def execEvFrame (s : State) : Result :=
  .next ((s.emit (.frame (signed16 s.bridge.leftData) (signed16 s.bridge.rightData))).putFrameClock s.frameClock.tick).silent

end Sys2Proof.Machine
end

