-- ==== Sys2Proof/Machine/BankSwitch.lean ====
section
/-! DEFINITION. The gate array and the shared bank window (spec/43_bank_switch.md). -/

namespace Sys2Proof.Machine

/-- `BankOf(g0, g1)` for given card presence (R191): card 1 before card 2, an absent card skipped. -/
def bankOf (card1 card2 : Bool) (g0 g1 : Byte) : BankSel :=
  if g0 ≠ 0 ∧ card1 = true then .card1
  else if g1 ≠ 0 ∧ card2 = true then .card2
  else .internal

/-- The selection recomputed from the latches as they now stand (R190, R191). -/
def Controller.reselect (c : Controller) : Controller :=
  { c with bankSel := bankOf Config.card1Valid Config.card2Valid c.gateArray0 c.gateArray1 }

/-- `GA_WR0 value` (R192). -/
def execGaWr0 (value : Byte) (s : State) : Result :=
  .next (s.putController ({ s.controller with gateArray0 := value } : Controller).reselect).silent

/-- `GA_WR1 value` (R193). -/
def execGaWr1 (value : Byte) (s : State) : Result :=
  .next (s.putController ({ s.controller with gateArray1 := value } : Controller).reselect).silent

/-- `BANK_RD off` (R194); an offset at or beyond the window's size is refused (R105). -/
def execBankRd (off : Half) (s : State) : Result :=
  if Config.bankWindowSize ≤ off.toNat then .refused (.outsideBankWindow off)
  else .next (s.answer (.byte (memRead s.controller.bankSel (.bank off))))

end Sys2Proof.Machine
end

