-- ==== Sys2Proof/Machine/BridgeCore.lean ====
section
/-! DEFINITION. The Bridge's eight core-side ports (spec/41_bridge_core_ports.md). All take effect at once, none raises an
exception (R150), and all are legal only while `core_reset = 0` (R264). -/

namespace Sys2Proof.Machine

/-- `C_REG_RD` (R151). -/
def execCRegRd (s : State) : Result := coreAccess s fun s => s.answer (.word s.bridge.registerSelect)

/-- `C_DATA_RD` (R152): the value before, the flag cleared, `ready` if the flag was set. -/
def execCDataRd (s : State) : Result :=
  coreAccess s fun s =>
    ((s.putBridge s.bridge.clearPending).answer (.word s.bridge.writeData)).emitReady .onConsume s.bridge.writePending

/-- `C_PEND_RD` (R153). -/
def execCPendRd (s : State) : Result := coreAccess s fun s => s.answer (.bit s.bridge.pendingLine)

/-- `C_ROM_RD` (R154): the cursor does not move. -/
def execCRomRd (s : State) : Result :=
  coreAccess s fun s =>
    s.answer (.byte (memRead s.controller.bankSel (.rom (romFullAddress s.bridge.romBank s.bridge.romAddress))))

/-- `C_ROMADDR_WR value` (R155). -/
def execCRomaddrWr (value : Half) (s : State) : Result := coreWrite s fun b => { b with romAddress := value }

/-- `C_ROMBANK_WR value` (R156). -/
def execCRombankWr (value : Half) (s : State) : Result := coreWrite s fun b => { b with romBank := value }

/-- `C_LEFT_WR value` (R157). -/
def execCLeftWr (value : Half) (s : State) : Result := coreWrite s fun b => { b with leftData := value }

/-- `C_RIGHT_WR value` (R158). -/
def execCRightWr (value : Half) (s : State) : Result := coreWrite s fun b => { b with rightData := value }

end Sys2Proof.Machine
end

