-- ==== Sys2Proof/Machine/BridgeHost.lean ====
section
/-! DEFINITION. The Bridge's host ports and its deferred deliveries (spec/40_bridge_host_ports.md). -/

namespace Sys2Proof.Machine

/-- `H_STATUS_RD` (R121). -/
def execHStatusRd (s : State) : Result := .next (s.answer (.word s.bridge.status))

/-- `H_REG_WR value` (R122): only the cell changes, `register_select` does not. -/
def execHRegWr (value : Half) (s : State) : Result :=
  .next (s.putBridge (s.bridge.captureReg value s.now)).silent

/-- `H_DATA_WR value` (R123): only the cell changes, `write_data` and the flag do not. -/
def execHDataWr (value : Half) (s : State) : Result :=
  .next (s.putBridge (s.bridge.captureData value s.now)).silent

/-- `EV_REG_SYNC` (R124). -/
def execEvRegSync (s : State) : Result :=
  match s.bridge.regCell with
  | none => .fault .eventNotEnabled
  | some c =>
    if cellFires c s.bridge.dataCell s.now then .next (s.putBridge (s.bridge.deliverReg c.value)).silent
    else .fault .eventNotEnabled

/-- `EV_DATA_SYNC` (R125). -/
def execEvDataSync (s : State) : Result :=
  match s.bridge.dataCell with
  | none => .fault .eventNotEnabled
  | some c =>
    if cellFires c s.bridge.regCell s.now then .next (s.putBridge (s.bridge.deliverData c.value)).silent
    else .fault .eventNotEnabled

end Sys2Proof.Machine
end

