-- ==== Sys2Proof/Machine/Keyboard.lean ====
section
/-! DEFINITION. The keyboard matrix: scan timer, control register, data port with the digitizer merge
(spec/44_keyboard.md). -/

namespace Sys2Proof.Machine

/-- Armed at `now`: the first tick is one full period later (R204). -/
def armAt (rate : ScanRate) (now : Time) : KbTimer := .armed rate (now + period rate)

/-- Step 1 of R201: a rising bit 7 disarms. -/
def kbTimerStep1 (old new : Byte) (t : KbTimer) : KbTimer :=
  if scanOff old = false ∧ scanOff new = true then .disarmed else t

/-- Step 2 of R201: a falling bit 7 arms at 192 Hz. -/
def kbTimerStep2 (old new : Byte) (now : Time) (t : KbTimer) : KbTimer :=
  if scanOff old = true ∧ scanOff new = false then armAt .active now else t

/-- Step 3 of R201: an edge of bit 6 with the new bit 7 clear re-arms at 32 or 256 Hz. -/
def kbTimerStep3 (old new : Byte) (now : Time) (t : KbTimer) : KbTimer :=
  if scanOff new = false ∧ slowBit old ≠ slowBit new then
    if slowBit new then armAt .slow now else armAt .fast now
  else t

/-- The scan timer after a control write, steps 1 to 3 in order (R201, D13). -/
def kbTimerAfterWrite (old new : Byte) (now : Time) (t : KbTimer) : KbTimer :=
  kbTimerStep3 old new now (kbTimerStep2 old new now (kbTimerStep1 old new t))

/-- `KBM_WR value` (R201). -/
def execKbmWr (value : Byte) (s : State) : Result :=
  let c := s.controller
  .next (s.putController
    { c with kbTimer := kbTimerAfterWrite c.kbMatrix value s.now c.kbTimer, kbMatrix := value }).silent

/-- `KeyRow(r)`: the input word of an existing row, 0 for a row the variant does not have (R205, D15). -/
def keyRow (v : KbVariant) (p : Pins) (r : BitVec 4) : Half :=
  if r.toNat < nRows v then p.rows[r.toNat]'(r.isLt) else 0#16

/-- `TS(line)` (R206): the comparison is over the integers, `TS_FIRST_LINE = 7`. -/
def tsRead (p : Pins) (line : BitVec 4) : Half :=
  if p.tsContact = true ∧ (tsBucket p.tsX : Int) = (line.toNat : Int) - 7 then tsBit (tsBucket p.tsY) else 0#16

/-- One row's word with the digitizer merged by OR (R207). -/
def rowData (v : KbVariant) (p : Pins) (r : BitVec 4) : Half := keyRow v p r ||| tsRead p r

/-- The OR of rows 0 to `n - 1` (R207). -/
def allRows (v : KbVariant) (p : Pins) : Nat → Half
  | 0 => 0#16
  | n + 1 => allRows v p n ||| rowData v p (BitVec.ofNat 4 n)

/-- The word of the keyboard data port for selector `sel`; the sentinel test comes first (R207). -/
def kbData (v : KbVariant) (sentinel : BitVec 4) (p : Pins) (sel : BitVec 4) : Half :=
  if sel = sentinel then allRows v p (nRows v) else rowData v p sel

/-- This build's `KB_SENTINEL` (R208). -/
def sentinelHere : BitVec 4 := kbSentinel Config.kbSentinelV12 Config.kbVariant

/-- `KB_RD` (R207): the selector is state, the rows and the digitizer are sampled at this instant (R205). -/
def execKbRd (s : State) : Result :=
  .next (s.answer (.word (kbData Config.kbVariant sentinelHere s.pins (rowSel s.controller.kbMatrix))))

/-- `EV_KB_TICK` (R210). -/
def execEvKbTick (s : State) : Result :=
  match s.controller.kbTimer with
  | .disarmed => .fault .eventNotEnabled
  | .armed rate next =>
    if next = s.now then
      .next ((s.putController { s.controller with kbTimer := .armed rate (next + period rate) }).emit .keyIntPulse).silent
    else .fault .eventNotEnabled

end Sys2Proof.Machine
end

