-- ==== Sys2Proof/Machine/Reset.lean ====
section
/-! DEFINITION. Device reset and the release of the core (spec/70_reset_and_hazards.md R260 to R264). -/

namespace Sys2Proof.Machine

/-- `EV_DEVICE_RESET`, both parts (R261, R262). -/
def execEvDeviceReset (s : State) : Result :=
  .next ((s.putBridge (Bridge.deviceReset s.now)).putController (Controller.deviceReset s.now)).silent

/-- `EV_RESET_RELEASE` (R263). -/
def execEvResetRelease (s : State) : Result :=
  match s.bridge.resetTimer with
  | none => .fault .eventNotEnabled
  | some due =>
    if due = s.now then
      .next ((s.putBridge { s.bridge with coreReset := false, resetTimer := none }).emitReady .onResetRelease true).silent
    else .fault .eventNotEnabled

end Sys2Proof.Machine
end

