-- ==== Sys2Proof/Machine/Dispatch.lean ====
section
/-! DEFINITION. One arm per operation, one call of its meaning. -/

namespace Sys2Proof.Machine

def exec (i : Instr) (s : State) : Host.Outcome State Fault Refusal :=
  match i with
  | .hStatusRd => Sys2Proof.Machine.execHStatusRd s
  | .hRegWr value => Sys2Proof.Machine.execHRegWr value s
  | .hDataWr value => Sys2Proof.Machine.execHDataWr value s
  | .cRegRd => Sys2Proof.Machine.execCRegRd s
  | .cDataRd => Sys2Proof.Machine.execCDataRd s
  | .cPendRd => Sys2Proof.Machine.execCPendRd s
  | .cRomRd => Sys2Proof.Machine.execCRomRd s
  | .cRomaddrWr value => Sys2Proof.Machine.execCRomaddrWr value s
  | .cRombankWr value => Sys2Proof.Machine.execCRombankWr value s
  | .cLeftWr value => Sys2Proof.Machine.execCLeftWr value s
  | .cRightWr value => Sys2Proof.Machine.execCRightWr value s
  | .gaWr0 value => Sys2Proof.Machine.execGaWr0 value s
  | .gaWr1 value => Sys2Proof.Machine.execGaWr1 value s
  | .kbmWr value => Sys2Proof.Machine.execKbmWr value s
  | .kbRd => Sys2Proof.Machine.execKbRd s
  | .bankRd off => Sys2Proof.Machine.execBankRd off s
  | .evRegSync => Sys2Proof.Machine.execEvRegSync s
  | .evDataSync => Sys2Proof.Machine.execEvDataSync s
  | .evResetRelease => Sys2Proof.Machine.execEvResetRelease s
  | .evFrame => Sys2Proof.Machine.execEvFrame s
  | .evKbTick => Sys2Proof.Machine.execEvKbTick s
  | .evDeviceReset => Sys2Proof.Machine.execEvDeviceReset s

end Sys2Proof.Machine
end

