-- ==== Sys2Proof/Machine/Fetch.lean ====
section
/-! DEFINITION. Which operation comes next. The block has no program counter and fetches no instruction (spec/10_state.md R24);
what orders it is the total order of the agents' operations and the due times of its timers. The outside agents' operations
stand in `State.pending`; the block's own timers, and the consumer's frame clock where it runs, fire when they fall due, before
any bus operation at the same instant (spec/20_memory.md R80, spec/30_encoding.md R98). -/

namespace Sys2Proof.Machine

/-- An armed timer, or a running frame clock: when it is due and the event it causes (R241, R98). -/
structure Due where
  due : Time
  event : Instr
deriving DecidableEq, Repr

/-- What the machine does next. -/
inductive Fetched where
  /-- Run this operation, from this state. -/
  | run (i : Instr) (s : State)
  /-- There is no move. -/
  | stuck (f : Fault)
  /-- The next word is reserved. -/
  | reserved (op : Byte)
deriving DecidableEq, Repr

/-- The cell that fires first: the earlier due, at one instant the lower `seq` (R80). -/
def cellDue (b : Bridge) : Option Due :=
  match b.regCell, b.dataCell with
  | none, none => none
  | some r, none => some ⟨r.due, .evRegSync⟩
  | none, some d => some ⟨d.due, .evDataSync⟩
  | some r, some d =>
    if d.due < r.due ∨ (d.due = r.due ∧ d.seq < r.seq) then some ⟨d.due, .evDataSync⟩ else some ⟨r.due, .evRegSync⟩

def resetDue (b : Bridge) : Option Due := b.resetTimer.map fun d => ⟨d, .evResetRelease⟩

def kbDue (c : Controller) : Option Due :=
  match c.kbTimer with
  | .disarmed => none
  | .armed _ next => some ⟨next, .evKbTick⟩

def frameDue (c : FrameClock) : Option Due :=
  match c with
  | .onRequest => none
  | .running next => some ⟨next, .evFrame⟩

/-- The earlier of two, the first at one instant. -/
def firstDue : Option Due → Option Due → Option Due
  | none, b => b
  | some a, none => some a
  | some a, some b => if b.due < a.due then some b else some a

/-- The next timer event; at one instant the cells come first (R80). DESIGN CHOICE, where R80 leaves the order free: then the
release of the core, the scan tick, the frame (log entry 17). -/
def nextDue (s : State) : Option Due :=
  firstDue (cellDue s.bridge) (firstDue (resetDue s.bridge) (firstDue (kbDue s.controller) (frameDue s.frameClock)))

/-- When the timer behind an event operation is due, or the next frame of a running clock; none for a timer not armed and for
every other operation. -/
def dueOf (i : Instr) (s : State) : Option Time :=
  match i with
  | .evRegSync => s.bridge.regCell.map Cell.due
  | .evDataSync => s.bridge.dataCell.map Cell.due
  | .evResetRelease => s.bridge.resetTimer
  | .evKbTick => (kbDue s.controller).map Due.due
  | .evFrame => (frameDue s.frameClock).map Due.due
  | .hStatusRd | .hRegWr _ | .hDataWr _ | .cRegRd | .cDataRd | .cPendRd | .cRomRd | .cRomaddrWr _ | .cRombankWr _
  | .cLeftWr _ | .cRightWr _ | .gaWr0 _ | .gaWr1 _ | .kbmWr _ | .kbRd | .bankRd _ | .evDeviceReset => none

/-- The order of different operations at one instant: the cells, then the other events, then the bus operations (R80).
DESIGN CHOICE: R80 does not rank the platform's `EV_DEVICE_RESET` against a timer event due at the same instant; here it comes
after every one, as a bus operation does, so that a cell due then still delivers and a tick due then still pulses
(log entry 17). -/
def tieRank : Instr → Nat
  | .evRegSync | .evDataSync => 0
  | .evResetRelease | .evFrame | .evKbTick => 1
  | .hStatusRd | .hRegWr _ | .hDataWr _ | .cRegRd | .cDataRd | .cPendRd | .cRomRd | .cRomaddrWr _ | .cRombankWr _
  | .cLeftWr _ | .cRightWr _ | .gaWr0 _ | .gaWr1 _ | .kbmWr _ | .kbRd | .bankRd _ | .evDeviceReset => 2

/-- Whether the timer event `e` comes before the operation `i` where both fall at one instant (R80); the events of rank 1
touch disjoint state and are left in the order the trace gives. DESIGN CHOICE between R80, D1 and R183: a frame due at `t` comes
before a sample write at `t`, as before every bus operation, though R183 has it see the writes "up to and including `t`"; a
frame on request, due at no instant, stands where the trace puts it (log entry 18). -/
def precedesAtTie (e i : Instr) : Bool := decide (tieRank e = 0) || decide (tieRank e < tieRank i)

/-- The timer event that must fire before the operation `i` takes place at `t`, if there is one: time cannot pass a due time
with the event unfired (R98), and at a tie R80 decides, for a frame and a sample write too (`precedesAtTie`, log entry 18).
DESIGN CHOICE: this holds between the frames of one `GEN n` on a running frame clock too (log entry 20).
At the power-up instant 0 nothing is looked for: every timer is armed a positive time ahead, so none is ever due then
(`State.Inv.dueLater`). -/
def ownFirst (i : Instr) (t : Time) (s : State) : Option Due :=
  if t = 0 then none
  else
    match nextDue s with
    | none => none
    | some d =>
      if d.event = i then none
      else if d.due < t ∨ (d.due = t ∧ precedesAtTie d.event i = true) then some d
      else none

/-- A free instant for a line of agent `a`: from now on, no earlier than `earliest`, and after it where the agent's bus was in
use then (R80, R101; log entry 3). -/
def freeInstant (a : Agent) (earliest : Time) (s : State) : Time :=
  max s.now (earliest + freeGap (decide (s.lines.lastUse a = some earliest)) s.lines.taken)

/-- The instant of a pending line. A line that states none is a timer event at the instant its timer is due, or takes place at a
free instant, no earlier than the line before; `atOnce` is the present instant. -/
def lineInstant (tr : Transaction) (i : Instr) (s : State) : Time :=
  match tr.when with
  | .exactly base wait => base.getD s.lines.last + wait
  | .later base wait =>
    (dueOf i s).getD (freeInstant (agentOf i) (max s.lines.last (base.getD s.lines.last + wait)) s)
  | .atOnce => (dueOf i s).getD s.now

/-- A line of a timer event, or of a frame of a running clock, at another instant than the due one (R98). -/
def offDue (i : Instr) (t : Time) (s : State) : Bool :=
  match dueOf i s with
  | none => false
  | some due => decide (due ≠ t)

/-- The next operation where the first pending line decodes to `i`. -/
def fetchLine (i : Instr) (tr : Transaction) (rest : List Transaction) (s : State) : Fetched :=
  let t := lineInstant tr i s
  match ownFirst i t s with
  | some d => .run d.event (s.advanceTo d.due)
  | none =>
    if t < s.now then .stuck .instantInPast
    else if offDue i t s = true then .stuck .eventNotEnabled
    else if s.lines.lastUse (agentOf i) = some t then .stuck .busInUse
    else .run i (((s.advanceTo t).takeLine (agentOf i) t).present tr.pins rest)

/-- The next operation of the machine. -/
def fetch (s : State) : Fetched :=
  match s.pending with
  | [] =>
    match nextDue s with
    | some d => .run d.event (s.advanceTo d.due)
    | none => .stuck .noOperation
  | tr :: rest =>
    match decode tr.word with
    | .error (.reserved op) => .reserved op
    | .ok i => fetchLine i tr rest s

/-- `WAIT t` before a line (R102): its instant is then `t` after the one it would start from, that of the last operation taken
where the trace states none (`LineClock`, log entry 19). -/
def When.wait (w : When) (t : Time) : When :=
  match w with
  | .exactly base wait | .later base wait => .exactly base (wait + t)
  | .atOnce => .exactly none t

/-- After a line that stands for no operation (`GEN 0`), the next starts from that line's instant. -/
def When.fromHere : When → When
  | .exactly base wait => .later base wait
  | .later base wait => .later base wait
  | .atOnce => .atOnce

/-- When the operations of a pseudo-operation after its first take place: the frames of a request together (R182), the others
as lines that state no instant. DESIGN CHOICE between R102, R182 and R98: on a running frame clock the frames of one `GEN n` fall
on successive due instants, and timer events due between them fire between them, though R102 and R182 have no other operation
there (log entry 20). -/
def restWhen : Pseudo → When
  | .gen _ => .atOnce
  | .gaWr _ _ | .hWrite _ _ | .cRomAt _ _ => .later none 0

/-- The transactions a list of trace lines stands for (R101, R102). `start` says when the next line takes place where it states
no instant; a trace starts with `.later none 0`. A line that states one takes place then, whatever was waited (log entry 3). -/
def assemble (pins : Pins) : When → List Line → List Transaction
  | _, [] => []
  | start, .wait t :: ls => assemble pins (start.wait t) ls
  | start, .op instant i :: ls =>
    let w := (instant.map fun t => When.exactly (some t) 0).getD start
    ⟨w, encode i, pins⟩ :: assemble pins (.later none 0) ls
  | start, .pseudo instant p :: ls =>
    let w := (instant.map fun t => When.exactly (some t) 0).getD start
    match p.expand with
    | [] => assemble pins w.fromHere ls
    | i :: is =>
      ⟨w, encode i, pins⟩ :: is.map (fun j => ⟨restWhen p, encode j, pins⟩) ++ assemble pins (.later none 0) ls

end Sys2Proof.Machine
end

