-- ==== Sys2Proof/Machine/Step.lean ====
section
/-! DEFINITION. One step: fetch the next operation and run it. -/

namespace Sys2Proof.Machine

/-- One operation of the total order (R75). -/
def step (s : State) : Host.Outcome State Fault Refusal :=
  match fetch s with
  | .run i s' => exec i s'
  | .stuck f => .fault f
  | .reserved op => .refused (.reservedWord op)

/-- A program is loaded from outside as pending transactions (log entry 2); this puts one word before all others, as a line at
the present instant with the inputs at the pins as they stand. A frame is placed as a request for one, so that it waits for no
clock (R182). -/
def State.withFetchWord (s : State) (nbits w : Nat) : State :=
  { s with
    pending := ⟨.atOnce, tableWord nbits w, s.pins⟩ :: s.pending
    frameClock := if decodeTableWord nbits w = some .evFrame then .onRequest else s.frameClock }

end Sys2Proof.Machine
end

