-- ==== Sys2Proof/Safety.lean ====
section
/-! DEFINITION. The terms claims are stated in: the invariant of the machine, the control states of the data path, runs of
several operations, and what is visible at the outputs. -/

namespace Sys2Proof.Machine

/-- A full cell is in order: it is due neither in the past nor later than one `SYNC_DELAY` from now, and it was numbered before
the next number (R33, R34). -/
structure CellInOrder (c : Cell) (now : Time) (nextSeq : Nat) : Prop where
  notOverdue : now ≤ c.due
  withinDelay : c.due ≤ now + Config.syncDelay
  numbered : c.seq < nextSeq

/-- Two full cells fall due in the order they were scheduled in (R77). -/
def CellsInOrder (r d : Cell) : Prop := (r.seq < d.seq ∧ r.due ≤ d.due) ∨ (d.seq < r.seq ∧ d.due ≤ r.due)

/-- The invariant of the Bridge at instant `now`: no timer is overdue, the cells are in order, and the core is held in reset
exactly while the reset-hold timer is armed (R33 to R36, R77, R98). -/
structure BridgeInv (b : Bridge) (now : Time) : Prop where
  regCell : ∀ c, b.regCell = some c → CellInOrder c now b.nextSeq
  dataCell : ∀ c, b.dataCell = some c → CellInOrder c now b.nextSeq
  cells : ∀ r d, b.regCell = some r → b.dataCell = some d → CellsInOrder r d
  hold : b.coreReset = b.resetTimer.isSome
  resetTimer : ∀ due, b.resetTimer = some due → now ≤ due ∧ due ≤ now + Config.resetHoldTime

/-- The invariant of the Controller at instant `now`: the bank selection follows the latches (R196), a set bit 7 means a
disarmed timer (R43), and an armed timer ticks within one period from now (R98, R204). -/
structure ControllerInv (c : Controller) (now : Time) : Prop where
  bankSel : c.bankSel = bankOf Config.card1Valid Config.card2Valid c.gateArray0 c.gateArray1
  scanOff : scanOff c.kbMatrix = true → c.kbTimer = .disarmed
  kbTimer : ∀ rate next, c.kbTimer = .armed rate next → now ≤ next ∧ next ≤ now + period rate

/-- Where the trace stands at instant `now`: no line and no bus use lies after it (R14). -/
structure LinesInv (l : LineClock) (now : Time) : Prop where
  last : l.last ≤ now
  lastUse : ∀ a u, l.lastUse a = some u → u ≤ l.last

/-- The invariant of the machine; a running frame clock is not overdue either (R98), and nothing is due at the power-up instant,
since every timer is armed a positive time ahead. -/
structure State.Inv (s : State) : Prop where
  started : 0 ≤ s.now
  dueLater : ∀ e due, dueOf e s = some due → 0 < due
  bridge : BridgeInv s.bridge s.now
  controller : ControllerInv s.controller s.now
  frameClock : ∀ next, s.frameClock = .running next → s.now ≤ next
  lines : LinesInv s.lines s.now

/-- The four control states of the data path (R126). -/
inductive DataPath where
  | idle
  | scheduled
  | pending
  | pendingScheduled
deriving DecidableEq, Repr

/-- The control state, named by whether the data cell is full and whether the flag is set (R126). -/
def Bridge.dataPath (b : Bridge) : DataPath :=
  match b.dataCell.isSome, b.writePending with
  | false, false => .idle
  | true, false => .scheduled
  | false, true => .pending
  | true, true => .pendingScheduled

/-- The operations of a list, one after another at the present instant, stopping at the first stop. -/
def execAll : List Instr → State → Result
  | [], s => .next s
  | i :: is, s =>
    match exec i s with
    | .next s' => execAll is s'
    | .fault f => .fault f
    | .refused r => .refused r

/-- `k` steps of the machine. -/
def runSteps (k : Nat) (s : State) : Result := Host.Core.run Sys2Proof.core k s

/-- No pending word is decoded to an operation for which `p` holds. -/
def State.noPending (s : State) (p : Instr → Bool) : Prop :=
  ∀ tr ∈ s.pending, ∀ i, decode tr.word = .ok i → p i = false

/-- The operations that end what a full register-select cell is waiting for: another write of its kind, or device reset. -/
def disturbsRegCell : Instr → Bool
  | .hRegWr _ | .evDeviceReset => true
  | .hStatusRd | .hDataWr _ | .cRegRd | .cDataRd | .cPendRd | .cRomRd | .cRomaddrWr _ | .cRombankWr _ | .cLeftWr _
  | .cRightWr _ | .gaWr0 _ | .gaWr1 _ | .kbmWr _ | .kbRd | .bankRd _ | .evRegSync | .evDataSync | .evResetRelease
  | .evFrame | .evKbTick => false

/-- The operations that end what a full data cell is waiting for: another write of its kind, or device reset. -/
def disturbsDataCell : Instr → Bool
  | .hDataWr _ | .evDeviceReset => true
  | .hStatusRd | .hRegWr _ | .cRegRd | .cDataRd | .cPendRd | .cRomRd | .cRomaddrWr _ | .cRombankWr _ | .cLeftWr _
  | .cRightWr _ | .gaWr0 _ | .gaWr1 _ | .kbmWr _ | .kbRd | .bankRd _ | .evRegSync | .evDataSync | .evResetRelease
  | .evFrame | .evKbTick => false

/-- The operations that can start, stop or re-rate the scan timer: a control write, or device reset. -/
def disturbsScan : Instr → Bool
  | .kbmWr _ | .evDeviceReset => true
  | .hStatusRd | .hRegWr _ | .hDataWr _ | .cRegRd | .cDataRd | .cPendRd | .cRomRd | .cRomaddrWr _ | .cRombankWr _
  | .cLeftWr _ | .cRightWr _ | .gaWr0 _ | .gaWr1 _ | .kbRd | .bankRd _ | .evRegSync | .evDataSync | .evResetRelease
  | .evFrame | .evKbTick => false

/-- The number of interrupt pulses emitted so far. -/
def State.pulses (s : State) : Nat := s.outputs.count .keyIntPulse

/-- Whether an output event is a frame. -/
def Output.isFrame : Output → Bool
  | .frame _ _ => true
  | .keyIntPulse | .ready => false

/-- The number of frames emitted so far. -/
def State.frames (s : State) : Nat := s.outputs.countP Output.isFrame

/-- The operations of the Bridge, device reset apart. -/
def onBridge (i : Instr) : Bool :=
  match agentOf i with
  | .hostA | .core | .syncReg | .syncData | .resetTimer | .frameClock => true
  | .hostB | .kbTimer | .env => false

/-- The operations of the Controller, device reset apart. -/
def onController (i : Instr) : Bool :=
  match agentOf i with
  | .hostB | .kbTimer => true
  | .hostA | .core | .syncReg | .syncData | .resetTimer | .frameClock | .env => false

/-- When an operation is legal (R98, R99): a core operation while the core is released, a timer event where it is enabled, a
window read inside the window, everything else always. -/
def Legal (i : Instr) (s : State) : Prop :=
  match i with
  | .cRegRd | .cDataRd | .cPendRd | .cRomRd | .cRomaddrWr _ | .cRombankWr _ | .cLeftWr _ | .cRightWr _ =>
    s.bridge.coreReset = false
  | .bankRd off => off.toNat < Config.bankWindowSize
  | .evRegSync =>
    ∃ c, s.bridge.regCell = some c ∧ c.due = s.now ∧ ∀ o, s.bridge.dataCell = some o → o.due = s.now → c.seq ≤ o.seq
  | .evDataSync =>
    ∃ c, s.bridge.dataCell = some c ∧ c.due = s.now ∧ ∀ o, s.bridge.regCell = some o → o.due = s.now → c.seq ≤ o.seq
  | .evResetRelease => s.bridge.resetTimer = some s.now
  | .evKbTick => ∃ rate, s.controller.kbTimer = .armed rate s.now
  | .hStatusRd | .hRegWr _ | .hDataWr _ | .gaWr0 _ | .gaWr1 _ | .kbmWr _ | .kbRd | .evFrame | .evDeviceReset => True

end Sys2Proof.Machine
end

