-- ==== Sys2Proof/Certificates/Slice0/Obligations.lean ====
section
/-! DEFINITION. The statements for the provers. A result statement gives the whole next state, so that it is at once the
completion and the frame of its operation: every field not named is the field of the state before. The block owns no
read-write memory (spec/20_memory.md R61, R66), so no statement speaks of a stored byte. -/

open Sys2Proof Sys2Proof.Machine

/-! Encoding. -/

/-- R91 to R97: decoding the canonical word of any operation gives it back, every operand at every value. -/
def Obligations.DecodeEncodeRoundTrip : Prop := ∀ i : Instr, decode (encode i) = .ok i

/-- R92, R96: a word that decodes to an operation differs from its canonical word only in bits the format ignores. -/
def Obligations.DecodedWordIsCanonicalUpToIgnoredBits : Prop :=
  ∀ (w : TWord) (i : Instr), decode w = .ok i → encode i = w &&& significantBits (formatOf i)

/-- R103: exactly the words whose op number is 0x03 to 0x0F, 0x18 to 0x1F, 0x25 to 0x2F, 0x35 to 0x3E or 0x40 to 0xFF are
reserved; the error carries the op number, and the machine refuses the word. -/
def Obligations.ReservedOpNumbersAreRefused : Prop :=
  (∀ (op : Byte) (data : Half),
    let n := op.toNat
    (decode (op ++ data) = .error (.reserved op)) ↔
      (0x03 ≤ n ∧ n ≤ 0x0F) ∨ (0x18 ≤ n ∧ n ≤ 0x1F) ∨ (0x25 ≤ n ∧ n ≤ 0x2F) ∨ (0x35 ≤ n ∧ n ≤ 0x3E) ∨ 0x40 ≤ n) ∧
  ∀ (s : State) (tr : Transaction) (rest : List Transaction) (op : Byte),
    s.pending = tr :: rest → decode tr.word = .error (.reserved op) → step s = .refused (.reservedWord op)

/-- Words written out from R95 (the vectors V12 and others of 95_test_vectors.md). -/
def Obligations.WrittenOutWordsDecode : Prop :=
  decode 0x000000#24 = .ok .hStatusRd ∧ decode 0x00ABCD#24 = .ok .hStatusRd ∧
  decode 0x02BEEF#24 = .ok (.hDataWr 0xBEEF#16) ∧ decode 0x141234#24 = .ok (.cRomaddrWr 0x1234#16) ∧
  decode 0x17FFCE#24 = .ok (.cRightWr 0xFFCE#16) ∧ decode 0x2001FF#24 = .ok (.gaWr0 0xFF#8) ∧
  decode 0x22004D#24 = .ok (.kbmWr 0x4D#8) ∧ decode 0x240010#24 = .ok (.bankRd 0x0010#16) ∧
  decode 0x310000#24 = .ok .evDataSync ∧ decode 0x3F0000#24 = .ok .evDeviceReset

/-! The step. -/

/-- A step runs the decoded operation. The first two clauses are a line that takes place at `t` on a bus not used at `t`: no
timer event comes before it, at its due instant if it is a timer's own event; and that is so where every timer is due after `t`,
but for the line's own event at `t`. The third is a line with a timer event `d` before it: the event runs and the line stays. The
fourth is the block left to itself. The next four say where there is no move. The last two are the word the host places, at the
present instant. Instants of lines that state none, and the placed word, rest on log entries 3 and 2. -/
def Obligations.StepRunsTheDecodedOperation : Prop :=
  (∀ (s : State) (tr : Transaction) (rest : List Transaction) (i : Instr) (t : Time),
    s.pending = tr :: rest → decode tr.word = .ok i → lineInstant tr i s = t → ownFirst i t s = none → s.now ≤ t →
    (∀ due, dueOf i s = some due → due = t) → s.lines.lastUse (agentOf i) ≠ some t →
    step s = exec i { s with now := t, pins := tr.pins, lines := s.lines.take (agentOf i) t, pending := rest }) ∧
  (∀ (s : State) (tr : Transaction) (rest : List Transaction) (i : Instr) (t : Time),
    s.pending = tr :: rest → decode tr.word = .ok i → lineInstant tr i s = t → s.now ≤ t →
    (∀ e due, dueOf e s = some due → (e = i ∧ due = t) ∨ (e ≠ i ∧ t < due)) → s.lines.lastUse (agentOf i) ≠ some t →
    step s = exec i { s with now := t, pins := tr.pins, lines := s.lines.take (agentOf i) t, pending := rest }) ∧
  (∀ (s : State) (tr : Transaction) (rest : List Transaction) (i : Instr) (t : Time) (d : Due),
    s.pending = tr :: rest → decode tr.word = .ok i → lineInstant tr i s = t → ownFirst i t s = some d →
    step s = exec d.event { s with now := d.due }) ∧
  (∀ (s : State) (d : Due), s.pending = [] → nextDue s = some d → step s = exec d.event { s with now := d.due }) ∧
  (∀ s : State, s.pending = [] → nextDue s = none → step s = .fault .noOperation) ∧
  (∀ (s : State) (tr : Transaction) (rest : List Transaction) (i : Instr) (t : Time),
    s.pending = tr :: rest → decode tr.word = .ok i → lineInstant tr i s = t → ownFirst i t s = none → t < s.now →
    step s = .fault .instantInPast) ∧
  (∀ (s : State) (tr : Transaction) (rest : List Transaction) (i : Instr) (t due : Time),
    s.pending = tr :: rest → decode tr.word = .ok i → lineInstant tr i s = t → ownFirst i t s = none → s.now ≤ t →
    dueOf i s = some due → due ≠ t → step s = .fault .eventNotEnabled) ∧
  (∀ (s : State) (tr : Transaction) (rest : List Transaction) (i : Instr) (t : Time),
    s.pending = tr :: rest → decode tr.word = .ok i → lineInstant tr i s = t → ownFirst i t s = none → s.now ≤ t →
    dueOf i s = none → s.lines.lastUse (agentOf i) = some t → step s = .fault .busInUse) ∧
  (∀ (s : State) (nbits w : Nat) (i : Instr),
    decodeTableWord nbits w = some i → i ≠ .evFrame → dueOf i s = none → (∀ e due, dueOf e s = some due → s.now < due) →
    s.lines.lastUse (agentOf i) ≠ some s.now →
    step (s.withFetchWord nbits w) = exec i { s with lines := s.lines.take (agentOf i) s.now }) ∧
  (∀ (s : State) (nbits w : Nat),
    decodeTableWord nbits w = some .evFrame → (∀ e due, e ≠ .evFrame → dueOf e s = some due → s.now < due) →
    step (s.withFetchWord nbits w) =
      exec .evFrame { s with frameClock := .onRequest, lines := s.lines.take .frameClock s.now })

/-- R80, R98: a bus operation or device reset whose line takes place at `t` waits while a timer is due at or before `t`: the
step fires, at its due instant, a timer event that no other is due before, the event completes, and the line stays pending. Of
events due at that instant a cell comes first, and of two cells the one with the lower `seq`. That a frame due at the very
instant of a sample write comes before it is log entry 18; device reset at `t` is log entry 17. The timer is due after the
power-up instant, as every armed one is (`StepKeepsTheInvariant`). -/
def Obligations.DueTimersFireBeforeABusOperation : Prop :=
  ∀ (s : State) (tr : Transaction) (rest : List Transaction) (i e₀ : Instr) (t d₀ : Time),
    s.pending = tr :: rest → decode tr.word = .ok i → lineInstant tr i s = t → tieRank i = 2 →
    dueOf e₀ s = some d₀ → 0 < d₀ → d₀ ≤ t →
    ∃ (e : Instr) (d : Time) (u : State), dueOf e s = some d ∧ d ≤ t ∧ (∀ e' d', dueOf e' s = some d' → d ≤ d') ∧
      step s = exec e { s with now := d } ∧ step s = .next u ∧ u.pending = s.pending ∧
      (∀ c, s.bridge.regCell = some c ∨ s.bridge.dataCell = some c → c.due = d → e = .evRegSync ∨ e = .evDataSync) ∧
      (∀ r c, s.bridge.regCell = some r → s.bridge.dataCell = some c → r.due = d → c.due = d →
        (r.seq < c.seq → e = .evRegSync) ∧ (c.seq < r.seq → e = .evDataSync))

/-- R80: no two operations of one bus share an instant: the line a step takes is on a bus not used at its instant, and the use
is remembered. -/
def Obligations.OneBusCarriesOneOperationAtAnInstant : Prop :=
  ∀ (s t : State) (tr : Transaction) (rest : List Transaction) (i : Instr),
    s.pending = tr :: rest → decode tr.word = .ok i →
    agentOf i = .hostA ∨ agentOf i = .core ∨ agentOf i = .hostB →
    step s = .next t → t.pending = rest →
    s.lines.lastUse (agentOf i) ≠ some t.now ∧ t.lines.lastUse (agentOf i) = some t.now ∧
      ∀ a, a ≠ agentOf i → t.lines.lastUse a = s.lines.lastUse a

/-- R101 under log entry 3: a line that states no instant, the later frames of a request among them, has one, `t`, no earlier
than now, at its due instant if it is an armed timer's event, and with its bus free. The step takes the line at `t`, or fires
another timer event that is due no later than `t`, after which the line is still pending at the same `t`. -/
def Obligations.ALineWithoutInstantFindsOne : Prop :=
  ∀ (s : State) (tr : Transaction) (rest : List Transaction) (i : Instr) (t : Time),
    s.Inv → s.pending = tr :: rest → decode tr.word = .ok i →
    (∃ base wait, tr.when = .later base wait) ∨ (tr.when = .atOnce ∧ i = .evFrame) → lineInstant tr i s = t →
    s.now ≤ t ∧ (∀ due, dueOf i s = some due → due = t) ∧ s.lines.lastUse (agentOf i) ≠ some t ∧
    (step s = exec i { s with now := t, pins := tr.pins, lines := s.lines.take (agentOf i) t, pending := rest } ∨
     ∃ (e : Instr) (d : Time) (u : State), e ≠ i ∧ dueOf e s = some d ∧ d ≤ t ∧ step s = exec e { s with now := d } ∧
       step s = .next u ∧ u.pending = s.pending ∧ lineInstant tr i u = t)

/-- R98, R99: an operation completes exactly where it is legal. -/
def Obligations.CompletesExactlyWhereLegal : Prop :=
  ∀ (i : Instr) (s : State), (∃ t, exec i s = .next t) ↔ Legal i s

/-! Invariants. -/

/-- The invariant holds at reset. That a running frame clock is not overdue, and has no frame due at the power-up instant, rests on
log entry 9; where the trace stands is log entry 3. -/
def Obligations.ResetMeetsTheInvariant : Prop := State.reset.Inv

/-- Every step keeps the invariant: no due time is passed with its event unfired, cells fire in scheduling order, the core is
held exactly while the hold timer is armed, the selection follows the latches, a set bit 7 means a disarmed scan timer, a running
frame clock is not overdue, nothing is due at the power-up instant or before, no bus use lies ahead. -/
def Obligations.StepKeepsTheInvariant : Prop := ∀ s t : State, s.Inv → step s = .next t → t.Inv

/-- R14: the instants of successive operations never decrease. -/
def Obligations.TimeNeverDecreases : Prop := ∀ s t : State, s.Inv → step s = .next t → s.now ≤ t.now

/-- R196, R43: the bank selection follows the latches and a set bit 7 means a disarmed scan timer, after reset and after every
operation, whatever the Bridge's state. -/
def Obligations.OperationsKeepSelectionAndScanOff : Prop :=
  let ok (c : Controller) : Prop :=
    c.bankSel = bankOf Config.card1Valid Config.card2Valid c.gateArray0 c.gateArray1 ∧
      (c.kbMatrix.getLsbD 7 = true → c.kbTimer = .disarmed)
  ok State.reset.controller ∧ ∀ (i : Instr) (s t : State), ok s.controller → exec i s = .next t → ok t.controller

/-! Whole-machine rules. -/

/-- R25: the flag is set by `EV_DATA_SYNC` and by nothing else, cleared by `C_DATA_RD`, by device reset and by nothing else;
it is read inverted as status bit 0 (the spec's decision D4, log entry 12), by `C_PEND_RD`, and drives the pending line; its
reset value is 0. No other operation reads it but `C_DATA_RD` (R152): whatever the flag, each does and returns the same, and a
flag it does not write it leaves. -/
def Obligations.PendingFlagSetAndClearedOnlyByItsOperations : Prop :=
  (∀ (i : Instr) (s t : State), exec i s = .next t →
    t.bridge.writePending =
      match i with
      | .evDataSync => true
      | .cDataRd => false
      | .evDeviceReset => false
      | _ => s.bridge.writePending) ∧
  (∀ s : State, ∃ v : Half,
    exec .hStatusRd s = .next { s with reply := some (.word v) } ∧ v.getLsbD 0 = !s.bridge.writePending) ∧
  (∀ s : State, s.bridge.coreReset = false →
    exec .cPendRd s = .next { s with reply := some (.bit s.bridge.writePending) }) ∧
  (∀ b : Bridge, b.pendingLine = b.writePending) ∧
  State.reset.bridge.writePending = false ∧
  ∀ (i : Instr) (s t : State) (flag : Bool), i ≠ .hStatusRd → i ≠ .cPendRd → i ≠ .cDataRd → exec i s = .next t →
    exec i { s with bridge := { s.bridge with writePending := flag } } = .next { t with
      bridge := { t.bridge with
        writePending :=
          match i with
          | .evDataSync => true
          | .evDeviceReset => false
          | _ => flag } }

/-- R21, R33 to R36: every field of the Bridge changes only by the operations the tables name as its writers. -/
def Obligations.BridgeFieldsHaveOnlyTheirWriters : Prop :=
  ∀ (i : Instr) (s t : State), exec i s = .next t → i ≠ .evDeviceReset →
    (t.bridge.registerSelect ≠ s.bridge.registerSelect → i = .evRegSync) ∧
    (t.bridge.writeData ≠ s.bridge.writeData → i = .evDataSync) ∧
    (t.bridge.writePending ≠ s.bridge.writePending →
      (i = .evDataSync ∧ t.bridge.writePending = true) ∨ (i = .cDataRd ∧ t.bridge.writePending = false)) ∧
    (t.bridge.nextSeq ≠ s.bridge.nextSeq → t.bridge.nextSeq = s.bridge.nextSeq + 1 ∧ ∃ v, i = .hRegWr v ∨ i = .hDataWr v) ∧
    (t.bridge.romAddress ≠ s.bridge.romAddress → ∃ v, i = .cRomaddrWr v ∧ t.bridge.romAddress = v) ∧
    (t.bridge.romBank ≠ s.bridge.romBank → ∃ v, i = .cRombankWr v ∧ t.bridge.romBank = v) ∧
    (t.bridge.leftData ≠ s.bridge.leftData → ∃ v, i = .cLeftWr v ∧ t.bridge.leftData = v) ∧
    (t.bridge.rightData ≠ s.bridge.rightData → ∃ v, i = .cRightWr v ∧ t.bridge.rightData = v) ∧
    (t.bridge.regCell ≠ s.bridge.regCell → i = .evRegSync ∨ ∃ v, i = .hRegWr v) ∧
    (t.bridge.dataCell ≠ s.bridge.dataCell → i = .evDataSync ∨ ∃ v, i = .hDataWr v) ∧
    (t.bridge.coreReset ≠ s.bridge.coreReset → i = .evResetRelease ∧ t.bridge.coreReset = false) ∧
    (t.bridge.resetTimer ≠ s.bridge.resetTimer → i = .evResetRelease ∧ t.bridge.resetTimer = none)

/-- R38 to R42: every field of the Controller changes only by the operations named as its writers. -/
def Obligations.ControllerFieldsHaveOnlyTheirWriters : Prop :=
  ∀ (i : Instr) (s t : State), exec i s = .next t → i ≠ .evDeviceReset →
    (t.controller.kbMatrix ≠ s.controller.kbMatrix → ∃ v, i = .kbmWr v ∧ t.controller.kbMatrix = v) ∧
    (t.controller.gateArray0 ≠ s.controller.gateArray0 → ∃ v, i = .gaWr0 v ∧ t.controller.gateArray0 = v) ∧
    (t.controller.gateArray1 ≠ s.controller.gateArray1 → ∃ v, i = .gaWr1 v ∧ t.controller.gateArray1 = v) ∧
    (t.controller.bankSel ≠ s.controller.bankSel → ∃ v, i = .gaWr0 v ∨ i = .gaWr1 v) ∧
    (t.controller.kbTimer ≠ s.controller.kbTimer → i = .evKbTick ∨ ∃ v, i = .kbmWr v)

/-- R74: exactly one read has a side effect. Every other read changes no state of the block and emits nothing; `C_DATA_RD`
changes only the flag, and a second one returns the same value. -/
def Obligations.OnlyTheDataReadHasASideEffect : Prop :=
  (∀ (i : Instr) (s t : State), (i = .hStatusRd ∨ i = .cRegRd ∨ i = .cPendRd ∨ i = .cRomRd ∨ i = .kbRd ∨ ∃ off, i = .bankRd off) →
    exec i s = .next t → t = { s with reply := t.reply } ∧ t.reply ≠ none) ∧
  (∀ s t : State, exec .cDataRd s = .next t →
    t.bridge = { s.bridge with writePending := false } ∧ t.controller = s.controller ∧ t.now = s.now ∧
      ∃ u, exec .cDataRd t = .next u ∧ u.reply = t.reply ∧ u.bridge = t.bridge)

/-- R1: no operation of one block changes the other, and what an operation of one block does, returns and emits does not
depend on the other. -/
def Obligations.TheTwoBlocksShareNoState : Prop :=
  (∀ (i : Instr) (s t : State), exec i s = .next t →
    (onBridge i = true → t.controller = s.controller) ∧ (onController i = true → t.bridge = s.bridge)) ∧
  (∀ (i : Instr) (s s' t : State), onBridge i = true → s'.bridge = s.bridge → s'.now = s.now → exec i s = .next t →
    ∃ (t' : State) (es : List Output), exec i s' = .next t' ∧ t'.bridge = t.bridge ∧ t'.reply = t.reply ∧
      t.outputs = s.outputs ++ es ∧ t'.outputs = s'.outputs ++ es) ∧
  (∀ (i : Instr) (s s' t : State), onController i = true → s'.controller = s.controller → s'.now = s.now → s'.pins = s.pins →
    exec i s = .next t →
    ∃ (t' : State) (es : List Output), exec i s' = .next t' ∧ t'.controller = t.controller ∧ t'.reply = t.reply ∧
      t.outputs = s.outputs ++ es ∧ t'.outputs = s'.outputs ++ es)

/-- R159, R82: what the arcade host is returned depends on the one status bit alone. -/
def Obligations.HostSeesOnlyTheStatusBit : Prop :=
  ∀ (i : Instr) (s s' : State), agentOf i = .hostA → s'.bridge.writePending = s.bridge.writePending →
    ∃ t t' : State, exec i s = .next t ∧ exec i s' = .next t' ∧ t'.reply = t.reply

/-- R264 (the spec's decision D27): while the core is held in reset no core operation has a move. -/
def Obligations.CoreOperationsStopWhileHeld : Prop :=
  ∀ (i : Instr) (s : State), agentOf i = .core → s.bridge.coreReset = true → exec i s = .fault .coreHeldInReset

/-- R231, R233, R236, R181: no operation raises more than one event; a pulse comes from `EV_KB_TICK` alone, a frame from `EV_FRAME`
alone, and `ready` (log entry 7) from a `C_DATA_RD` that finds the flag set. -/
def Obligations.EachOperationEmitsAtMostItsOwnEvent : Prop :=
  ∀ (i : Instr) (s t : State), exec i s = .next t →
    t.outputs = s.outputs ++
      match i with
      | .evKbTick => [.keyIntPulse]
      | .evFrame => [.frame s.bridge.leftData.toInt s.bridge.rightData.toInt]
      | .cDataRd => if s.bridge.writePending = true then [.ready] else []
      | _ => []

/-! The Bridge's host side. -/

/-- R121 (the spec's decisions D4, D5). -/
def Obligations.StatusReadReturnsReady : Prop :=
  (∀ d : Half, decode (0x00#8 ++ d) = .ok .hStatusRd) ∧
  ∀ s : State, exec .hStatusRd s = .next { s with
    reply := some (.word (if s.bridge.writePending = true then 0x0000#16 else 0x0001#16)) }

/-- R122, R78 (the spec's decision D3): whatever the cell held, it now holds the new value, due one `SYNC_DELAY` later. -/
def Obligations.RegisterWriteFillsOnlyItsCell : Prop :=
  (∀ v : Half, decode (0x01#8 ++ v) = .ok (.hRegWr v)) ∧
  ∀ (s : State) (v : Half), exec (.hRegWr v) s = .next { s with
    bridge := { s.bridge with
      regCell := some { value := v, due := s.now + Config.syncDelay, seq := s.bridge.nextSeq }
      nextSeq := s.bridge.nextSeq + 1 }
    reply := none }

/-- R123, R78 (the spec's decision D3). -/
def Obligations.DataWriteFillsOnlyItsCell : Prop :=
  (∀ v : Half, decode (0x02#8 ++ v) = .ok (.hDataWr v)) ∧
  ∀ (s : State) (v : Half), exec (.hDataWr v) s = .next { s with
    bridge := { s.bridge with
      dataCell := some { value := v, due := s.now + Config.syncDelay, seq := s.bridge.nextSeq }
      nextSeq := s.bridge.nextSeq + 1 }
    reply := none }

/-- R124: the cell fires at its due instant and not after a lower `seq` due then, delivers its value and empties; elsewhere it is
not enabled. -/
def Obligations.RegSyncDeliversTheCell : Prop :=
  (∀ d : Half, decode (0x30#8 ++ d) = .ok .evRegSync) ∧
  (∀ (s : State) (c : Cell), s.bridge.regCell = some c → c.due = s.now →
    (∀ o, s.bridge.dataCell = some o → o.due = s.now → c.seq ≤ o.seq) →
    exec .evRegSync s = .next { s with
      bridge := { s.bridge with registerSelect := c.value, regCell := none }
      reply := none }) ∧
  (∀ s : State, s.bridge.regCell = none → exec .evRegSync s = .fault .eventNotEnabled) ∧
  (∀ (s : State) (c : Cell), s.bridge.regCell = some c → c.due ≠ s.now → exec .evRegSync s = .fault .eventNotEnabled) ∧
  (∀ (s : State) (c o : Cell), s.bridge.regCell = some c → s.bridge.dataCell = some o → o.due = s.now → o.seq < c.seq →
    exec .evRegSync s = .fault .eventNotEnabled)

/-- R125, and for a register cell due at the same instant R80 (the spec's decision D1): as `RegSyncDeliversTheCell`, and the
flag rises in the same step, whether or not it was set. -/
def Obligations.DataSyncDeliversTheCellAndRaisesTheFlag : Prop :=
  (∀ d : Half, decode (0x31#8 ++ d) = .ok .evDataSync) ∧
  (∀ (s : State) (c : Cell), s.bridge.dataCell = some c → c.due = s.now →
    (∀ o, s.bridge.regCell = some o → o.due = s.now → c.seq ≤ o.seq) →
    exec .evDataSync s = .next { s with
      bridge := { s.bridge with writeData := c.value, writePending := true, dataCell := none }
      reply := none }) ∧
  (∀ s : State, s.bridge.dataCell = none → exec .evDataSync s = .fault .eventNotEnabled) ∧
  (∀ (s : State) (c : Cell), s.bridge.dataCell = some c → c.due ≠ s.now → exec .evDataSync s = .fault .eventNotEnabled) ∧
  (∀ (s : State) (c o : Cell), s.bridge.dataCell = some c → s.bridge.regCell = some o → o.due = s.now → o.seq < c.seq →
    exec .evDataSync s = .fault .eventNotEnabled)

/-- R26: delivery over a set flag leaves it set and overwrites the data, and nothing of the next state tells what the lost value
was, nor that a value was lost: it is the state the delivery leaves whatever the data and the flag were before. -/
def Obligations.OverrunLosesTheUnreadValue : Prop :=
  ∀ (s : State) (c : Cell), s.bridge.writePending = true → s.bridge.dataCell = some c → c.due = s.now →
    (∀ o, s.bridge.regCell = some o → o.due = s.now → c.seq ≤ o.seq) →
    ∃ t, exec .evDataSync s = .next t ∧ t.bridge.writePending = true ∧ t.bridge.writeData = c.value ∧
      ∀ (data : Half) (pending : Bool),
        exec .evDataSync { s with bridge := { s.bridge with writeData := data, writePending := pending } } = .next t

/-- R126: the control states of the data path, their two views, and every transition; `EV_DATA_SYNC` is not enabled with the
cell empty. -/
def Obligations.DataPathFollowsItsTable : Prop :=
  (∀ (s t : State) (v : Half), exec (.hDataWr v) s = .next t →
    t.bridge.dataPath =
      match s.bridge.dataPath with
      | .idle => .scheduled
      | .scheduled => .scheduled
      | .pending => .pendingScheduled
      | .pendingScheduled => .pendingScheduled) ∧
  (∀ s t : State, exec .evDataSync s = .next t → t.bridge.dataPath = .pending) ∧
  (∀ s t : State, exec .cDataRd s = .next t →
    t.bridge.dataPath =
      match s.bridge.dataPath with
      | .idle => .idle
      | .scheduled => .scheduled
      | .pending => .idle
      | .pendingScheduled => .scheduled) ∧
  (∀ s t : State, exec .evDeviceReset s = .next t → t.bridge.dataPath = .idle) ∧
  (∀ (i : Instr) (s t : State), exec i s = .next t → (∀ v, i ≠ .hDataWr v) → i ≠ .evDataSync → i ≠ .cDataRd →
    i ≠ .evDeviceReset → t.bridge.dataPath = s.bridge.dataPath) ∧
  (∀ s : State, s.bridge.dataPath = .idle ∨ s.bridge.dataPath = .pending → exec .evDataSync s = .fault .eventNotEnabled) ∧
  (∀ b : Bridge,
    (b.status.getLsbD 0, b.pendingLine) =
      match b.dataPath with
      | .idle => (true, false)
      | .scheduled => (true, false)
      | .pending => (false, true)
      | .pendingScheduled => (false, true))

/-- R76, R78, R79, R129 over any run: while a register-select write is neither superseded nor reset away, the core-visible latch
keeps its old value up to the due instant and holds the written value from then on. -/
def Obligations.RegisterWriteBecomesVisibleExactlyWhenDue : Prop :=
  ∀ (k : Nat) (s t : State) (c : Cell), s.Inv → s.bridge.regCell = some c → s.noPending disturbsRegCell →
    runSteps k s = .next t →
    (t.bridge.regCell = some c ∧ t.bridge.registerSelect = s.bridge.registerSelect ∧ t.now ≤ c.due) ∨
    (t.bridge.regCell = none ∧ t.bridge.registerSelect = c.value ∧ c.due ≤ t.now)

/-- R76, R78, R79, R128, R129 over any run: the same of a data write, and until it is due the flag does not rise, so the status
keeps what it was unless the core reads the data. -/
def Obligations.DataWriteBecomesVisibleExactlyWhenDue : Prop :=
  ∀ (k : Nat) (s t : State) (c : Cell), s.Inv → s.bridge.dataCell = some c → s.noPending disturbsDataCell →
    runSteps k s = .next t →
    (t.bridge.dataCell = some c ∧ t.bridge.writeData = s.bridge.writeData ∧ t.now ≤ c.due ∧
      (t.bridge.writePending = true → s.bridge.writePending = true)) ∨
    (t.bridge.dataCell = none ∧ t.bridge.writeData = c.value ∧ c.due ≤ t.now)

/-- R77, R130 over any run: a register-select write followed by a data write is seen by the core in that order: once the data is
delivered, the register number is. -/
def Obligations.RegisterNumberIsDeliveredBeforeItsData : Prop :=
  ∀ (k : Nat) (s t : State) (r d : Cell), s.Inv → s.bridge.regCell = some r → s.bridge.dataCell = some d → r.seq < d.seq →
    s.noPending disturbsRegCell → s.noPending disturbsDataCell → runSteps k s = .next t →
    t.bridge.dataCell = none → t.bridge.registerSelect = r.value ∧ t.bridge.writeData = d.value

/-- R78, R127: what one step does to a full register-select cell: it stays full before its due instant, or fires at it, or is
superseded with the first value never applied, or is discarded by device reset. -/
def Obligations.AFullRegisterCellStaysFiresOrIsSuperseded : Prop :=
  ∀ (s t : State) (c : Cell), s.Inv → s.bridge.regCell = some c → step s = .next t →
    t.now ≤ c.due ∧
    ((t.bridge.regCell = some c ∧ t.bridge.registerSelect = s.bridge.registerSelect) ∨
     (t.bridge.regCell = none ∧ t.bridge.registerSelect = c.value ∧ t.now = c.due) ∨
     (∃ v, t.bridge.regCell = some { value := v, due := t.now + Config.syncDelay, seq := s.bridge.nextSeq } ∧
       t.bridge.registerSelect = s.bridge.registerSelect) ∨
     (t.bridge.regCell = none ∧ t.bridge.registerSelect = 0x0000#16 ∧ t.bridge.coreReset = true))

/-! The Bridge's core side. -/

/-- R151. -/
def Obligations.CoreRegisterReadReturnsTheLatch : Prop :=
  (∀ d : Half, decode (0x10#8 ++ d) = .ok .cRegRd) ∧
  ∀ s : State, s.bridge.coreReset = false →
    exec .cRegRd s = .next { s with reply := some (.word s.bridge.registerSelect) }

/-- R152 (`ready` under the spec's decision D11). -/
def Obligations.CoreDataReadConsumesTheData : Prop :=
  (∀ d : Half, decode (0x11#8 ++ d) = .ok .cDataRd) ∧
  ∀ s : State, s.bridge.coreReset = false →
    exec .cDataRd s = .next { s with
      bridge := { s.bridge with writePending := false }
      reply := some (.word s.bridge.writeData)
      outputs := s.outputs ++ (if s.bridge.writePending = true then [.ready] else []) }

/-- R153, with its corner case: the host's status bit 0 is the inverse. -/
def Obligations.CorePendingReadReturnsTheFlag : Prop :=
  (∀ d : Half, decode (0x12#8 ++ d) = .ok .cPendRd) ∧
  ∀ s : State, s.bridge.coreReset = false →
    exec .cPendRd s = .next { s with reply := some (.bit s.bridge.writePending) } ∧
    ∃ v : Half, exec .hStatusRd s = .next { s with reply := some (.word v) } ∧ v.getLsbD 0 = !s.bridge.writePending

/-- R154, R62 (the spec's decisions D6, D7): the byte at bank and offset put together, and the cursor stays. -/
def Obligations.RomReadReturnsTheByteUnderTheCursor : Prop :=
  (∀ d : Half, decode (0x13#8 ++ d) = .ok .cRomRd) ∧
  ∀ s : State, s.bridge.coreReset = false →
    exec .cRomRd s = .next { s with reply := some (.byte (Config.rom (s.bridge.romBank ++ s.bridge.romAddress))) }

/-- R155, R156 (the spec's decision D6): each half of the cursor is replaced whole and the other stays. -/
def Obligations.RomCursorWritesReplaceTheirHalf : Prop :=
  (∀ v : Half, decode (0x14#8 ++ v) = .ok (.cRomaddrWr v) ∧ decode (0x15#8 ++ v) = .ok (.cRombankWr v)) ∧
  ∀ (s : State) (v : Half), s.bridge.coreReset = false →
    exec (.cRomaddrWr v) s = .next { s with bridge := { s.bridge with romAddress := v }, reply := none } ∧
    exec (.cRombankWr v) s = .next { s with bridge := { s.bridge with romBank := v }, reply := none }

/-- R157, R158 (the spec's decision D8): each channel's latch is replaced whole, the other stays, and no frame is produced. -/
def Obligations.SampleWritesReplaceTheirChannel : Prop :=
  (∀ v : Half, decode (0x16#8 ++ v) = .ok (.cLeftWr v) ∧ decode (0x17#8 ++ v) = .ok (.cRightWr v)) ∧
  ∀ (s : State) (v : Half), s.bridge.coreReset = false →
    exec (.cLeftWr v) s = .next { s with bridge := { s.bridge with leftData := v }, reply := none } ∧
    exec (.cRightWr v) s = .next { s with bridge := { s.bridge with rightData := v }, reply := none }

/-! The sampler. -/

/-- R181 (the spec's decision D9): the frame is the two latches read as two's complement, which stay. -/
def Obligations.FrameSamplesBothLatches : Prop :=
  (∀ d : Half, decode (0x33#8 ++ d) = .ok .evFrame) ∧
  ∀ s : State, exec .evFrame s = .next { s with
    frameClock :=
      match s.frameClock with
      | .onRequest => .onRequest
      | .running next => .running (next + Config.framePeriod)
    outputs := s.outputs ++ [.frame s.bridge.leftData.toInt s.bridge.rightData.toInt]
    reply := none }

/-- R98, R181 over any run: a running frame clock gives its frame at every due instant: after `n` frames it is due `n` periods
on, and never overdue. -/
def Obligations.ARunningFrameClockSamplesEveryPeriod : Prop :=
  ∀ (k : Nat) (s t : State) (next : Time), s.Inv → s.frameClock = .running next → runSteps k s = .next t →
    ∃ n : Nat, t.frames = s.frames + n ∧ t.frameClock = .running (next + n * Config.framePeriod) ∧
      t.now ≤ next + n * Config.framePeriod ∧ (0 < n → next + (n - 1) * Config.framePeriod ≤ t.now)

/-- R182 (the spec's decisions D8, D9): `GEN n` is `n` words of `EV_FRAME` and yields `n` equal frames. That a running frame
clock moves `n` periods on is the model's (log entry 9). -/
def Obligations.GenYieldsEqualFrames : Prop :=
  ∀ (n : Nat) (s : State),
    (Pseudo.gen n).expand = List.replicate n .evFrame ∧
    execAll (Pseudo.gen n).expand s = .next { s with
      frameClock :=
        match s.frameClock with
        | .onRequest => .onRequest
        | .running next => .running (next + n * Config.framePeriod)
      outputs := s.outputs ++ List.replicate n (.frame s.bridge.leftData.toInt s.bridge.rightData.toInt)
      reply := if n = 0 then s.reply else none }

/-- R276: a frame between the two channel writes pairs the new left with the old right. -/
def Obligations.FrameBetweenChannelWritesIsTorn : Prop :=
  ∀ (s : State) (l r : Half), s.bridge.coreReset = false →
    ∃ t, execAll [.cLeftWr l, .evFrame, .cRightWr r, .evFrame] s = .next t ∧
      t.outputs = s.outputs ++ [.frame l.toInt s.bridge.rightData.toInt, .frame l.toInt r.toInt]

/-! The gate array and the bank window. -/

/-- R192: the low byte is stored and the selection recomputed with the new latch 0. -/
def Obligations.GateArrayWrite0SelectsTheBank : Prop :=
  (∀ hi v : Byte, decode (0x20#8 ++ hi ++ v) = .ok (.gaWr0 v)) ∧
  ∀ (s : State) (v : Byte), exec (.gaWr0 v) s = .next { s with
    controller := { s.controller with
      gateArray0 := v
      bankSel :=
        if v ≠ 0#8 ∧ Config.card1Valid = true then .card1
        else if s.controller.gateArray1 ≠ 0#8 ∧ Config.card2Valid = true then .card2
        else .internal }
    reply := none }

/-- R193: the low byte is stored and the selection recomputed with the new latch 1; card 1 keeps priority. -/
def Obligations.GateArrayWrite1SelectsTheBank : Prop :=
  (∀ hi v : Byte, decode (0x21#8 ++ hi ++ v) = .ok (.gaWr1 v)) ∧
  ∀ (s : State) (v : Byte), exec (.gaWr1 v) s = .next { s with
    controller := { s.controller with
      gateArray1 := v
      bankSel :=
        if s.controller.gateArray0 ≠ 0#8 ∧ Config.card1Valid = true then .card1
        else if v ≠ 0#8 ∧ Config.card2Valid = true then .card2
        else .internal }
    reply := none }

/-- R196: the latches may be written in either order with the same result. -/
def Obligations.LatchOrderDoesNotMatter : Prop :=
  ∀ (s : State) (a b : Byte),
    ∃ t, execAll [.gaWr0 a, .gaWr1 b] s = .next t ∧ execAll [.gaWr1 b, .gaWr0 a] s = .next t ∧
      t.controller.gateArray0 = a ∧ t.controller.gateArray1 = b

/-- R195: the truth table of the selection, for every card presence. -/
def Obligations.BankSelectionTruthTable : Prop :=
  ∀ (g0 g1 : Byte) (card1 card2 : Bool),
    bankOf card1 card2 g0 g1 =
      match decide (g0 ≠ 0#8), card1, decide (g1 ≠ 0#8), card2 with
      | true, true, _, _ => .card1
      | true, false, true, true => .card2
      | true, false, true, false => .internal
      | true, false, false, _ => .internal
      | false, _, true, true => .card2
      | false, _, true, false => .internal
      | false, _, false, _ => .internal

/-- R194, R67, R105 (the spec's decisions D19, D21): inside the window the byte of the selected region at the same offset,
outside a refusal. -/
def Obligations.WindowReadReturnsTheSelectedRegion : Prop :=
  (∀ off : Half, decode (0x24#8 ++ off) = .ok (.bankRd off)) ∧
  ∀ (s : State) (off : Half),
    exec (.bankRd off) s =
      if off.toNat < Config.bankWindowSize then
        .next { s with
          reply := some (.byte
            (match s.controller.bankSel with
             | .internal => Config.regionInternal off
             | .card1 => Config.regionCard1 off
             | .card2 => Config.regionCard2 off)) }
      else .refused (.outsideBankWindow off)

/-- R84, R190: the very next window read after a gate-array write reads the region the latches now select. -/
def Obligations.NextWindowReadSeesTheNewBank : Prop :=
  let regionByte (b : BankSel) (off : Half) : Byte :=
    match b with
    | .internal => Config.regionInternal off
    | .card1 => Config.regionCard1 off
    | .card2 => Config.regionCard2 off
  ∀ (s : State) (v : Byte) (off : Half), off.toNat < Config.bankWindowSize →
    (∃ t, execAll [.gaWr0 v, .bankRd off] s = .next t ∧
      t.reply = some (.byte (regionByte (bankOf Config.card1Valid Config.card2Valid v s.controller.gateArray1) off))) ∧
    (∃ t, execAll [.gaWr1 v, .bankRd off] s = .next t ∧
      t.reply = some (.byte (regionByte (bankOf Config.card1Valid Config.card2Valid s.controller.gateArray0 v) off)))

/-! The keyboard. -/

/-- R201, R202, R203, R204 (the spec's decisions D13, D14): all sixteen combinations of the old and new bits 7 and 6; an armed
timer ticks first one full period after the write. -/
def Obligations.KeyboardControlWriteFollowsItsTable : Prop :=
  (∀ hi v : Byte, decode (0x22#8 ++ hi ++ v) = .ok (.kbmWr v)) ∧
  ∀ (s : State) (v : Byte), exec (.kbmWr v) s = .next { s with
    controller := { s.controller with
      kbMatrix := v
      kbTimer :=
        match s.controller.kbMatrix.getLsbD 7, s.controller.kbMatrix.getLsbD 6, v.getLsbD 7, v.getLsbD 6 with
        | false, false, false, false => s.controller.kbTimer
        | false, false, false, true => .armed .slow (s.now + 1 / 32)
        | false, false, true, false => .disarmed
        | false, false, true, true => .disarmed
        | false, true, false, false => .armed .fast (s.now + 1 / 256)
        | false, true, false, true => s.controller.kbTimer
        | false, true, true, false => .disarmed
        | false, true, true, true => .disarmed
        | true, false, false, false => .armed .active (s.now + 1 / 192)
        | true, false, false, true => .armed .slow (s.now + 1 / 32)
        | true, false, true, false => s.controller.kbTimer
        | true, false, true, true => s.controller.kbTimer
        | true, true, false, false => .armed .fast (s.now + 1 / 256)
        | true, true, false, true => .armed .active (s.now + 1 / 192)
        | true, true, true, false => s.controller.kbTimer
        | true, true, true, true => s.controller.kbTimer }
    reply := none }

/-- R39: a write whose bits 7 and 6 equal the stored ones changes no timer state, and stores the byte. -/
def Obligations.ScanTimerReactsToEdgesOnly : Prop :=
  ∀ (s : State) (v : Byte), v.getLsbD 7 = s.controller.kbMatrix.getLsbD 7 → v.getLsbD 6 = s.controller.kbMatrix.getLsbD 6 →
    exec (.kbmWr v) s = .next { s with controller := { s.controller with kbMatrix := v }, reply := none }

/-- R211: from reset, 0x80 then 0x40 leaves the scan timer armed at 32 Hz, one period after the second write. -/
def Obligations.ScanOffThenSlowArmsAt32Hz : Prop :=
  ∀ s : State, s.controller = State.reset.controller →
    ∃ t, execAll [.kbmWr 0x80#8, .kbmWr 0x40#8] s = .next t ∧ t.controller.kbMatrix = 0x40#8 ∧
      t.controller.kbTimer = .armed .slow (s.now + 1 / 32)

/-- R210 (the spec's decision D24): one pulse, the next tick one period on; not enabled elsewhere. -/
def Obligations.ScanTickPulsesAndRearms : Prop :=
  (∀ d : Half, decode (0x34#8 ++ d) = .ok .evKbTick) ∧
  (∀ (s : State) (rate : ScanRate), s.controller.kbTimer = .armed rate s.now →
    exec .evKbTick s = .next { s with
      controller := { s.controller with
        kbTimer := .armed rate (s.now +
          match rate with
          | .slow => 1 / 32
          | .fast => 1 / 256
          | .active => 1 / 192) }
      outputs := s.outputs ++ [.keyIntPulse]
      reply := none }) ∧
  (∀ s : State, s.controller.kbTimer = .disarmed → exec .evKbTick s = .fault .eventNotEnabled) ∧
  (∀ (s : State) (rate : ScanRate) (next : Time), s.controller.kbTimer = .armed rate next → next ≠ s.now →
    exec .evKbTick s = .fault .eventNotEnabled)

/-- R206 (the spec's decision D16): the bit of the Y bucket exactly on contact at the line of the X bucket, else nothing. -/
def Obligations.DigitizerAnswersOnlyItsLine : Prop :=
  ∀ (p : Pins) (line : BitVec 4),
    (p.tsContact = true → line.toNat = 7 + p.tsX.toNat / 64 →
      (tsRead p line).toNat = 0x1000 * 2 ^ (p.tsY.toNat / 64)) ∧
    (p.tsContact = false ∨ line.toNat ≠ 7 + p.tsX.toNat / 64 → tsRead p line = 0x0000#16) ∧
    (line.toNat < 7 ∨ 10 < line.toNat → tsRead p line = 0x0000#16)

/-- R207, R205, R208 (the spec's decisions D15, D17): the selected row with the digitizer merged, or for the sentinel, tested
first, the OR of all rows, each bit set exactly where some existing row has it; a missing row is 0, and the sentinel is the one
of this build's variant. -/
def Obligations.KeyboardReadReturnsRowOrAllRows : Prop :=
  (∀ d : Half, decode (0x23#8 ++ d) = .ok .kbRd) ∧
  (∀ s : State, ∃ data : Half, exec .kbRd s = .next { s with reply := some (.word data) } ∧
    (s.controller.kbMatrix.toNat % 16 ≠ sentinelHere.toNat →
      data = keyRow Config.kbVariant s.pins (rowSel s.controller.kbMatrix) ||| tsRead s.pins (rowSel s.controller.kbMatrix)) ∧
    (s.controller.kbMatrix.toNat % 16 = sentinelHere.toNat →
      ∀ j : Nat, data.getLsbD j = true ↔ ∃ r : BitVec 4, r.toNat < nRows Config.kbVariant ∧
        (keyRow Config.kbVariant s.pins r ||| tsRead s.pins r).getLsbD j = true)) ∧
  (∀ (v : KbVariant) (p : Pins) (r : BitVec 4),
    (∀ h : r.toNat < 16, r.toNat < nRows v → keyRow v p r = p.rows[r.toNat]) ∧ (nRows v ≤ r.toNat → keyRow v p r = 0x0000#16)) ∧
  nRows .v13 = 13 ∧ nRows .v12 = 12 ∧ (∀ x : Fin 4, kbSentinel x .v13 = 13#4 ∧ (kbSentinel x .v12).toNat = 12 + x.val) ∧
  (Config.kbVariant = .v13 → sentinelHere = 13#4) ∧
  (Config.kbVariant = .v12 → sentinelHere = kbSentinel Config.kbSentinelV12 .v12 ∧ 12 ≤ sentinelHere.toNat)

/-- R209: for fixed inputs, the sentinel's word is the OR of the words read with each existing row selected. -/
def Obligations.SentinelReadIsTheOrOfTheRowReads : Prop :=
  ∀ s : State, rowSel s.controller.kbMatrix = sentinelHere →
    ∃ (f : Nat → Half),
      (∀ r, r < nRows Config.kbVariant →
        exec .kbRd { s with controller := { s.controller with kbMatrix := BitVec.ofNat 8 r } } =
          .next { s with controller := { s.controller with kbMatrix := BitVec.ofNat 8 r }, reply := some (.word (f r)) }) ∧
      exec .kbRd s = .next { s with
        reply := some (.word ((List.range (nRows Config.kbVariant)).foldl (fun acc r => acc ||| f r) 0x0000#16)) }

/-- R204, R210 over any run: a disarmed scan timer gives no pulse until a write arms it. -/
def Obligations.ADisarmedTimerNeverPulses : Prop :=
  ∀ (k : Nat) (s t : State), s.controller.kbTimer = .disarmed → s.noPending disturbsScan → runSteps k s = .next t →
    t.pulses = s.pulses ∧ t.controller.kbTimer = .disarmed

/-- R204, R210, R241 over any run: an undisturbed armed timer pulses at its next instant and then every period: after `n` pulses
it is due `n` periods on, and never overdue. -/
def Obligations.AnUndisturbedTimerPulsesEveryPeriod : Prop :=
  ∀ (k : Nat) (s t : State) (rate : ScanRate) (next : Time), s.Inv → s.controller.kbTimer = .armed rate next →
    s.noPending disturbsScan → runSteps k s = .next t →
    ∃ n : Nat, t.pulses = s.pulses + n ∧ t.controller.kbTimer = .armed rate (next + n * period rate) ∧
      t.now ≤ next + n * period rate ∧ (0 < n → next + (n - 1) * period rate ≤ t.now)

/-! Reset. -/

/-- R261, R262, R260 (the spec's decisions D10, D12): both blocks take the reset values, whatever was in flight, nothing is
emitted, and at instant 0 they are those of the state at power-up. -/
def Obligations.DeviceResetRestoresBothBlocks : Prop :=
  (∀ d : Half, decode (0x3F#8 ++ d) = .ok .evDeviceReset) ∧
  ∀ s : State, ∃ t, exec .evDeviceReset s = .next t ∧
    t = { s with
      bridge := { registerSelect := 0, writeData := 0, writePending := false, romAddress := 0, romBank := 0, leftData := 0,
                  rightData := 0, regCell := none, dataCell := none, nextSeq := 0, coreReset := true,
                  resetTimer := some (s.now + Config.resetHoldTime) }
      controller := { kbMatrix := 0, gateArray0 := 0, gateArray1 := 0, bankSel := .internal,
                      kbTimer :=
                        match Config.kbTimerResetState with
                        | none => .disarmed
                        | some .slow => .armed .slow (s.now + 1 / 32)
                        | some .fast => .armed .fast (s.now + 1 / 256)
                        | some .active => .armed .active (s.now + 1 / 192) }
      reply := none } ∧
    (s.now = 0 → t.bridge = State.reset.bridge ∧ t.controller = State.reset.controller)

/-- R263 (the spec's decisions D10, D11): at its due instant the hold ends and the core may run; nothing is emitted under the
decided policy; not enabled elsewhere. -/
def Obligations.ResetReleaseFreesTheCore : Prop :=
  (∀ d : Half, decode (0x32#8 ++ d) = .ok .evResetRelease) ∧
  (∀ s : State, s.bridge.resetTimer = some s.now →
    exec .evResetRelease s = .next { s with
      bridge := { s.bridge with coreReset := false, resetTimer := none }
      reply := none }) ∧
  (∀ s : State, s.bridge.resetTimer ≠ some s.now → exec .evResetRelease s = .fault .eventNotEnabled)

/-- R35, R264, R263 over any run from a state in the hold: before the release is due the core is held and none of its operations
completes, and the hold ends no later than its due instant. -/
def Obligations.TheCoreIsHeldUntilTheReleaseIsDue : Prop :=
  ∀ (k : Nat) (s t : State) (due : Time), s.Inv → s.bridge.resetTimer = some due →
    s.noPending (fun i => decide (i = .evDeviceReset)) → runSteps k s = .next t →
    (t.bridge.coreReset = true ∧ t.bridge.resetTimer = some due ∧ t.now ≤ due) ∨
    (t.bridge.coreReset = false ∧ t.bridge.resetTimer = none ∧ due ≤ t.now)
end

