-- ==== Sys2Proof/Laws/Config.lean ====
section
/-! SUPPORT. What holds of the parameters whatever their values are. -/

namespace Sys2Proof.Machine

theorem syncDelay_pos : 0 < Config.syncDelay := by
  unfold Config.syncDelay
  split
  · assumption
  · norm_num

theorem resetHoldTime_pos : 0 < Config.resetHoldTime := by
  unfold Config.resetHoldTime
  split
  · assumption
  · norm_num

theorem framePeriod_pos : 0 < Config.framePeriod := by
  unfold Config.framePeriod
  split
  · assumption
  · norm_num

theorem freeGap_nonneg (p : Bool) (k : Nat) : 0 ≤ freeGap p k := by
  unfold freeGap
  split
  · next h => exact h.le
  · split <;> norm_num

theorem freeGap_pos (k : Nat) : 0 < freeGap true k := by
  unfold freeGap
  split
  · assumption
  · norm_num

theorem bankWindowSize_pos : 0 < Config.bankWindowSize := Nat.succ_pos _

theorem bankWindowSize_le : Config.bankWindowSize ≤ 65536 := Config.bankWindowLast.isLt

@[simp] theorem period_slow : period .slow = 1 / 32 := by simp [period, rateHz, Config.fSlow]

@[simp] theorem period_fast : period .fast = 1 / 256 := by simp [period, rateHz, Config.fFast]

@[simp] theorem period_active : period .active = 1 / 192 := by simp [period, rateHz, Config.fActive]

theorem period_pos (r : ScanRate) : 0 < period r := by cases r <;> norm_num

/-- The sample value is the two's-complement reading. -/
theorem signed16_eq_toInt (v : Half) : signed16 v = v.toInt := by
  have h := v.isLt
  unfold signed16
  rw [BitVec.toInt_eq_toNat_cond]
  split <;> split <;> omega

/-- Bank shifted left, OR offset, is the concatenation of the two (R62). -/
theorem romFullAddress_eq_append (bank offset : Half) : romFullAddress bank offset = bank ++ offset := by
  apply BitVec.eq_of_getLsbD_eq
  intro i hi
  simp only [romFullAddress, BitVec.getLsbD_or, BitVec.getLsbD_shiftLeft, BitVec.getLsbD_setWidth, BitVec.getLsbD_append, hi,
    decide_true, Bool.true_and]
  by_cases h : i < 16
  · simp [h]
  · have h' : 16 ≤ i := Nat.le_of_not_lt h
    have h'' : i - 16 < 32 := by omega
    simp [h, h'', BitVec.getLsbD_of_ge offset i h']

/-- No existing row's selector is the sentinel (R208). -/
theorem nRows_le_sentinel (x : Fin 4) (v : KbVariant) : nRows v ≤ (kbSentinel x v).toNat := by
  revert x
  cases v <;> decide

end Sys2Proof.Machine
end

