-- ==== Sys2Proof/Laws/Decode.lean ====
section
/-! SUPPORT. The fields of a word put together from its op number and its data. -/

namespace Sys2Proof

@[simp] theorem opField_append (op : Byte) (data : Half) : opField (op ++ data) = op := by
  apply BitVec.eq_of_getLsbD_eq
  intro i hi
  have h := BitVec.getLsbD_append (x := op) (y := data) (i := 16 + i)
  simp only [opField, BitVec.getLsbD_extractLsb', hi, decide_true, Bool.true_and]
  exact h.trans (by simp)

@[simp] theorem dataField_append (op : Byte) (data : Half) : dataField (op ++ data) = data := by
  apply BitVec.eq_of_getLsbD_eq
  intro i hi
  have h := BitVec.getLsbD_append (x := op) (y := data) (i := i)
  simp only [dataField, BitVec.getLsbD_extractLsb', hi, decide_true, Bool.true_and, Nat.zero_add]
  exact h.trans (by simp [hi])

/-- A word is its two fields. -/
theorem opField_append_dataField (w : TWord) : opField w ++ dataField w = w := by
  apply BitVec.eq_of_getLsbD_eq
  intro i hi
  refine (BitVec.getLsbD_append (x := opField w) (y := dataField w) (i := i)).trans ?_
  by_cases h : i < 16
  · simp [dataField, h]
  · have h8 : i - 16 < 8 := by omega
    have hs : 16 + (i - 16) = i := by omega
    simp [opField, h, h8, hs]

@[simp] theorem w16Operand_eq (data : Half) : w16Operand data = data := by
  apply BitVec.eq_of_getLsbD_eq
  intro i hi
  have : (0xFFFF#16).getLsbD i = true := by
    have h := BitVec.getLsbD_allOnes (v := 16) (i := i)
    simpa [hi] using h
  simp [w16Operand, this]

@[simp] theorem roOperand_eq (data : Half) : roOperand data = data := rfl

@[simp] theorem w8Operand_append (hi lo : Byte) : w8Operand (hi ++ lo) = lo := by
  apply BitVec.eq_of_getLsbD_eq
  intro i h
  have h' := BitVec.getLsbD_append (x := hi) (y := lo) (i := i)
  simp only [w8Operand, BitVec.getLsbD_extractLsb', h, decide_true, Bool.true_and, Nat.zero_add]
  exact h'.trans (by simp [h])

@[simp] theorem w8Operand_setWidth (v : Byte) : w8Operand (v.setWidth 16) = v := by
  apply BitVec.eq_of_getLsbD_eq
  intro i h
  have : i < 16 := by omega
  simp [w8Operand, h, this]

@[simp] theorem opField_encode (i : Instr) : opField (encode i) = opNumber i := opField_append _ _

@[simp] theorem dataField_encode (i : Instr) : dataField (encode i) = dataOf i := dataField_append _ _

end Sys2Proof
end

