-- ==== Sys2Proof/Laws/State.lean ====
section
/-! SUPPORT. One lemma per field per update of the state, so that no proof unfolds an update. -/

namespace Sys2Proof.Machine

@[simp] theorem State.putBridge_bridge (s : State) (b : Bridge) : (s.putBridge b).bridge = b := rfl
@[simp] theorem State.putBridge_controller (s : State) (b : Bridge) : (s.putBridge b).controller = s.controller := rfl
@[simp] theorem State.putBridge_now (s : State) (b : Bridge) : (s.putBridge b).now = s.now := rfl
@[simp] theorem State.putBridge_pins (s : State) (b : Bridge) : (s.putBridge b).pins = s.pins := rfl
@[simp] theorem State.putBridge_pending (s : State) (b : Bridge) : (s.putBridge b).pending = s.pending := rfl
@[simp] theorem State.putBridge_reply (s : State) (b : Bridge) : (s.putBridge b).reply = s.reply := rfl
@[simp] theorem State.putBridge_outputs (s : State) (b : Bridge) : (s.putBridge b).outputs = s.outputs := rfl
@[simp] theorem State.putBridge_frameClock (s : State) (b : Bridge) : (s.putBridge b).frameClock = s.frameClock := rfl
@[simp] theorem State.putBridge_lines (s : State) (b : Bridge) : (s.putBridge b).lines = s.lines := rfl

@[simp] theorem State.putController_bridge (s : State) (c : Controller) : (s.putController c).bridge = s.bridge := rfl
@[simp] theorem State.putController_controller (s : State) (c : Controller) : (s.putController c).controller = c := rfl
@[simp] theorem State.putController_now (s : State) (c : Controller) : (s.putController c).now = s.now := rfl
@[simp] theorem State.putController_pins (s : State) (c : Controller) : (s.putController c).pins = s.pins := rfl
@[simp] theorem State.putController_pending (s : State) (c : Controller) : (s.putController c).pending = s.pending := rfl
@[simp] theorem State.putController_reply (s : State) (c : Controller) : (s.putController c).reply = s.reply := rfl
@[simp] theorem State.putController_outputs (s : State) (c : Controller) : (s.putController c).outputs = s.outputs := rfl
@[simp] theorem State.putController_frameClock (s : State) (c : Controller) : (s.putController c).frameClock = s.frameClock := rfl
@[simp] theorem State.putController_lines (s : State) (c : Controller) : (s.putController c).lines = s.lines := rfl

@[simp] theorem State.advanceTo_bridge (s : State) (t : Time) : (s.advanceTo t).bridge = s.bridge := rfl
@[simp] theorem State.advanceTo_controller (s : State) (t : Time) : (s.advanceTo t).controller = s.controller := rfl
@[simp] theorem State.advanceTo_now (s : State) (t : Time) : (s.advanceTo t).now = t := rfl
@[simp] theorem State.advanceTo_pins (s : State) (t : Time) : (s.advanceTo t).pins = s.pins := rfl
@[simp] theorem State.advanceTo_pending (s : State) (t : Time) : (s.advanceTo t).pending = s.pending := rfl
@[simp] theorem State.advanceTo_reply (s : State) (t : Time) : (s.advanceTo t).reply = s.reply := rfl
@[simp] theorem State.advanceTo_outputs (s : State) (t : Time) : (s.advanceTo t).outputs = s.outputs := rfl
@[simp] theorem State.advanceTo_frameClock (s : State) (t : Time) : (s.advanceTo t).frameClock = s.frameClock := rfl
@[simp] theorem State.advanceTo_lines (s : State) (t : Time) : (s.advanceTo t).lines = s.lines := rfl

@[simp] theorem State.answer_bridge (s : State) (r : Reply) : (s.answer r).bridge = s.bridge := rfl
@[simp] theorem State.answer_controller (s : State) (r : Reply) : (s.answer r).controller = s.controller := rfl
@[simp] theorem State.answer_now (s : State) (r : Reply) : (s.answer r).now = s.now := rfl
@[simp] theorem State.answer_pins (s : State) (r : Reply) : (s.answer r).pins = s.pins := rfl
@[simp] theorem State.answer_pending (s : State) (r : Reply) : (s.answer r).pending = s.pending := rfl
@[simp] theorem State.answer_reply (s : State) (r : Reply) : (s.answer r).reply = some r := rfl
@[simp] theorem State.answer_outputs (s : State) (r : Reply) : (s.answer r).outputs = s.outputs := rfl
@[simp] theorem State.answer_frameClock (s : State) (r : Reply) : (s.answer r).frameClock = s.frameClock := rfl
@[simp] theorem State.answer_lines (s : State) (r : Reply) : (s.answer r).lines = s.lines := rfl

@[simp] theorem State.silent_bridge (s : State) : (s.silent).bridge = s.bridge := rfl
@[simp] theorem State.silent_controller (s : State) : (s.silent).controller = s.controller := rfl
@[simp] theorem State.silent_now (s : State) : (s.silent).now = s.now := rfl
@[simp] theorem State.silent_pins (s : State) : (s.silent).pins = s.pins := rfl
@[simp] theorem State.silent_pending (s : State) : (s.silent).pending = s.pending := rfl
@[simp] theorem State.silent_reply (s : State) : (s.silent).reply = none := rfl
@[simp] theorem State.silent_outputs (s : State) : (s.silent).outputs = s.outputs := rfl
@[simp] theorem State.silent_frameClock (s : State) : (s.silent).frameClock = s.frameClock := rfl
@[simp] theorem State.silent_lines (s : State) : (s.silent).lines = s.lines := rfl

@[simp] theorem State.emit_bridge (s : State) (o : Output) : (s.emit o).bridge = s.bridge := rfl
@[simp] theorem State.emit_controller (s : State) (o : Output) : (s.emit o).controller = s.controller := rfl
@[simp] theorem State.emit_now (s : State) (o : Output) : (s.emit o).now = s.now := rfl
@[simp] theorem State.emit_pins (s : State) (o : Output) : (s.emit o).pins = s.pins := rfl
@[simp] theorem State.emit_pending (s : State) (o : Output) : (s.emit o).pending = s.pending := rfl
@[simp] theorem State.emit_reply (s : State) (o : Output) : (s.emit o).reply = s.reply := rfl
@[simp] theorem State.emit_outputs (s : State) (o : Output) : (s.emit o).outputs = s.outputs ++ [o] := rfl
@[simp] theorem State.emit_frameClock (s : State) (o : Output) : (s.emit o).frameClock = s.frameClock := rfl
@[simp] theorem State.emit_lines (s : State) (o : Output) : (s.emit o).lines = s.lines := rfl

@[simp] theorem State.present_bridge (s : State) (p : Pins) (rest : List Transaction) : (s.present p rest).bridge = s.bridge := rfl
@[simp] theorem State.present_controller (s : State) (p : Pins) (rest : List Transaction) : (s.present p rest).controller = s.controller := rfl
@[simp] theorem State.present_now (s : State) (p : Pins) (rest : List Transaction) : (s.present p rest).now = s.now := rfl
@[simp] theorem State.present_pins (s : State) (p : Pins) (rest : List Transaction) : (s.present p rest).pins = p := rfl
@[simp] theorem State.present_pending (s : State) (p : Pins) (rest : List Transaction) : (s.present p rest).pending = rest := rfl
@[simp] theorem State.present_reply (s : State) (p : Pins) (rest : List Transaction) : (s.present p rest).reply = s.reply := rfl
@[simp] theorem State.present_outputs (s : State) (p : Pins) (rest : List Transaction) : (s.present p rest).outputs = s.outputs := rfl
@[simp] theorem State.present_frameClock (s : State) (p : Pins) (rest : List Transaction) : (s.present p rest).frameClock = s.frameClock := rfl
@[simp] theorem State.present_lines (s : State) (p : Pins) (rest : List Transaction) : (s.present p rest).lines = s.lines := rfl

@[simp] theorem State.takeLine_bridge (s : State) (a : Agent) (t : Time) : (s.takeLine a t).bridge = s.bridge := rfl
@[simp] theorem State.takeLine_controller (s : State) (a : Agent) (t : Time) : (s.takeLine a t).controller = s.controller := rfl
@[simp] theorem State.takeLine_now (s : State) (a : Agent) (t : Time) : (s.takeLine a t).now = s.now := rfl
@[simp] theorem State.takeLine_pins (s : State) (a : Agent) (t : Time) : (s.takeLine a t).pins = s.pins := rfl
@[simp] theorem State.takeLine_frameClock (s : State) (a : Agent) (t : Time) : (s.takeLine a t).frameClock = s.frameClock := rfl
@[simp] theorem State.takeLine_lines (s : State) (a : Agent) (t : Time) : (s.takeLine a t).lines = s.lines.take a t := rfl
@[simp] theorem State.takeLine_pending (s : State) (a : Agent) (t : Time) : (s.takeLine a t).pending = s.pending := rfl
@[simp] theorem State.takeLine_reply (s : State) (a : Agent) (t : Time) : (s.takeLine a t).reply = s.reply := rfl
@[simp] theorem State.takeLine_outputs (s : State) (a : Agent) (t : Time) : (s.takeLine a t).outputs = s.outputs := rfl

@[simp] theorem State.putFrameClock_bridge (s : State) (c : FrameClock) : (s.putFrameClock c).bridge = s.bridge := rfl
@[simp] theorem State.putFrameClock_controller (s : State) (c : FrameClock) : (s.putFrameClock c).controller = s.controller := rfl
@[simp] theorem State.putFrameClock_now (s : State) (c : FrameClock) : (s.putFrameClock c).now = s.now := rfl
@[simp] theorem State.putFrameClock_pins (s : State) (c : FrameClock) : (s.putFrameClock c).pins = s.pins := rfl
@[simp] theorem State.putFrameClock_frameClock (s : State) (c : FrameClock) : (s.putFrameClock c).frameClock = c := rfl
@[simp] theorem State.putFrameClock_lines (s : State) (c : FrameClock) : (s.putFrameClock c).lines = s.lines := rfl
@[simp] theorem State.putFrameClock_pending (s : State) (c : FrameClock) : (s.putFrameClock c).pending = s.pending := rfl
@[simp] theorem State.putFrameClock_reply (s : State) (c : FrameClock) : (s.putFrameClock c).reply = s.reply := rfl
@[simp] theorem State.putFrameClock_outputs (s : State) (c : FrameClock) : (s.putFrameClock c).outputs = s.outputs := rfl

@[simp] theorem State.emitReady_bridge (s : State) (p : ReadyPolicy) (h : Bool) : (s.emitReady p h).bridge = s.bridge := by
  unfold State.emitReady; split <;> rfl

@[simp] theorem State.emitReady_controller (s : State) (p : ReadyPolicy) (h : Bool) : (s.emitReady p h).controller = s.controller := by
  unfold State.emitReady; split <;> rfl

@[simp] theorem State.emitReady_now (s : State) (p : ReadyPolicy) (h : Bool) : (s.emitReady p h).now = s.now := by
  unfold State.emitReady; split <;> rfl

@[simp] theorem State.emitReady_pins (s : State) (p : ReadyPolicy) (h : Bool) : (s.emitReady p h).pins = s.pins := by
  unfold State.emitReady; split <;> rfl

@[simp] theorem State.emitReady_frameClock (s : State) (p : ReadyPolicy) (h : Bool) : (s.emitReady p h).frameClock = s.frameClock := by
  unfold State.emitReady; split <;> rfl

@[simp] theorem State.emitReady_lines (s : State) (p : ReadyPolicy) (h : Bool) : (s.emitReady p h).lines = s.lines := by
  unfold State.emitReady; split <;> rfl

@[simp] theorem State.emitReady_pending (s : State) (p : ReadyPolicy) (h : Bool) : (s.emitReady p h).pending = s.pending := by
  unfold State.emitReady; split <;> rfl

@[simp] theorem State.emitReady_reply (s : State) (p : ReadyPolicy) (h : Bool) : (s.emitReady p h).reply = s.reply := by
  unfold State.emitReady; split <;> rfl

/-- `ready` under the decided policy `on_consume`. -/
@[simp] theorem State.emitReady_onConsume_outputs (s : State) (h : Bool) :
    (s.emitReady .onConsume h).outputs = s.outputs ++ (if h = true then [.ready] else []) := by
  cases h <;> simp [State.emitReady, Config.readyPolicy]

@[simp] theorem State.emitReady_onResetRelease (s : State) (h : Bool) : s.emitReady .onResetRelease h = s := by
  simp [State.emitReady, Config.readyPolicy]

@[simp] theorem Bridge.setPending_writePending (b : Bridge) : b.setPending.writePending = true := rfl

@[simp] theorem Bridge.clearPending_writePending (b : Bridge) : b.clearPending.writePending = false := rfl

@[simp] theorem LineClock.take_last (l : LineClock) (a : Agent) (t : Time) : (l.take a t).last = t := rfl

@[simp] theorem LineClock.take_taken (l : LineClock) (a : Agent) (t : Time) : (l.take a t).taken = l.taken + 1 := rfl

/-- Taking a line records the use of its own bus and leaves the others. -/
theorem LineClock.lastUse_take (l : LineClock) (a b : Agent) (t : Time) :
    (l.take a t).lastUse b = if a = b ∧ (b = .hostA ∨ b = .core ∨ b = .hostB) then some t else l.lastUse b := by
  cases b <;> simp [LineClock.take, LineClock.lastUse]

@[simp] theorem FrameClock.tick_onRequest : FrameClock.tick .onRequest = .onRequest := rfl

@[simp] theorem FrameClock.tick_running (next : Time) :
    FrameClock.tick (.running next) = .running (next + Config.framePeriod) := rfl

/-- Two states with equal fields are equal. -/
theorem State.eq_of_fields {s t : State} (hb : s.bridge = t.bridge) (hc : s.controller = t.controller) (hn : s.now = t.now)
    (hp : s.pins = t.pins) (hf : s.frameClock = t.frameClock) (hl : s.lines = t.lines) (hq : s.pending = t.pending) (hr : s.reply = t.reply) (ho : s.outputs = t.outputs) : s = t := by
  cases s; cases t; simp_all

end Sys2Proof.Machine
end

