-- ==== Sys2Proof/Laws/Ops.lean ====
section
/-! SUPPORT. For each shared operation, one lemma that says all it can do. -/

namespace Sys2Proof.Machine

/-- A core access completes exactly while the core is released, and then does what it was given to do. -/
theorem coreAccess_next {s t : State} {act : State → State} :
    coreAccess s act = .next t ↔ s.bridge.coreReset = false ∧ t = act s := by
  unfold coreAccess
  cases s.bridge.coreReset <;> simp [eq_comm]

theorem coreAccess_held {s : State} {act : State → State} (h : s.bridge.coreReset = true) :
    coreAccess s act = .fault .coreHeldInReset := by simp [coreAccess, h]

theorem coreAccess_released {s : State} {act : State → State} (h : s.bridge.coreReset = false) :
    coreAccess s act = .next (act s) := by simp [coreAccess, h]

/-- A core write changes the Bridge by the write it was given, returns nothing, and does no more. -/
theorem coreWrite_next {s t : State} {write : Bridge → Bridge} :
    coreWrite s write = .next t ↔ s.bridge.coreReset = false ∧ t = (s.putBridge (write s.bridge)).silent := coreAccess_next

/-- When a cell fires: at its due instant, with no lower `seq` due then in the other cell. -/
theorem cellFires_iff {c : Cell} {other : Option Cell} {now : Time} :
    cellFires c other now = true ↔ c.due = now ∧ ∀ o, other = some o → o.due = now → c.seq ≤ o.seq := by
  unfold cellFires
  cases other with
  | none => simp
  | some o =>
    simp only [Bool.and_eq_true, decide_eq_true_eq, Bool.not_eq_true', Bool.and_eq_false_iff, decide_eq_false_iff_not,
      Nat.not_lt, Option.some.injEq, forall_eq']
    constructor
    · rintro ⟨h, h' | h'⟩
      · exact ⟨h, fun hd => absurd hd h'⟩
      · exact ⟨h, fun _ => h'⟩
    · rintro ⟨h, h'⟩
      by_cases hd : o.due = now
      · exact ⟨h, .inr (h' hd)⟩
      · exact ⟨h, .inl hd⟩

/-- Recomputing the selection sets it to what the latches say and changes nothing else. -/
theorem Controller.reselect_eq (c : Controller) : c.reselect =
    { c with bankSel := bankOf Config.card1Valid Config.card2Valid c.gateArray0 c.gateArray1 } := rfl

/-- What a control write can do to the scan timer: keep it, disarm it, or arm it one period ahead. -/
theorem kbTimerAfterWrite_cases (old new : Byte) (now : Time) (t : KbTimer) :
    kbTimerAfterWrite old new now t = t ∨ kbTimerAfterWrite old new now t = .disarmed ∨
      ∃ rate, kbTimerAfterWrite old new now t = armAt rate now := by
  unfold kbTimerAfterWrite kbTimerStep3 kbTimerStep2 kbTimerStep1
  split
  · split
    · exact .inr (.inr ⟨_, rfl⟩)
    · exact .inr (.inr ⟨_, rfl⟩)
  · split
    · exact .inr (.inr ⟨_, rfl⟩)
    · split
      · exact .inr (.inl rfl)
      · exact .inl rfl

/-- A control write with the new bit 7 set leaves no armed timer, if a set bit 7 left none before. -/
theorem kbTimerAfterWrite_scanOff {old new : Byte} {now : Time} {t : KbTimer} (hn : scanOff new = true)
    (ho : scanOff old = true → t = .disarmed) : kbTimerAfterWrite old new now t = .disarmed := by
  unfold kbTimerAfterWrite kbTimerStep3 kbTimerStep2 kbTimerStep1
  cases h : scanOff old <;> simp_all

/-- A bit of the OR of the first `n` rows is set exactly where one of those rows has it. -/
theorem allRows_getLsbD (v : KbVariant) (p : Pins) (n : Nat) (hn : n ≤ 16) (j : Nat) :
    (allRows v p n).getLsbD j = true ↔ ∃ r : BitVec 4, r.toNat < n ∧ (rowData v p r).getLsbD j = true := by
  induction n with
  | zero => simp [allRows]
  | succ n ih =>
    have hn' : (BitVec.ofNat 4 n).toNat = n := by simp [BitVec.toNat_ofNat]; omega
    simp only [allRows, BitVec.getLsbD_or, Bool.or_eq_true, ih (by omega)]
    constructor
    · rintro (⟨r, hr, h⟩ | h)
      · exact ⟨r, by omega, h⟩
      · exact ⟨BitVec.ofNat 4 n, by omega, h⟩
    · rintro ⟨r, hr, h⟩
      by_cases hrn : r.toNat < n
      · exact .inl ⟨r, hrn, h⟩
      · have : r = BitVec.ofNat 4 n := BitVec.eq_of_toNat_eq (by omega)
        exact .inr (this ▸ h)

end Sys2Proof.Machine
end

