-- ==== Sys2Proof/Laws/Exec.lean ====
section
/-! SUPPORT. What an operation can do, said once: what is shown of each of the 22 next states below holds of every next state. -/

namespace Sys2Proof.Machine

/-- Inversion of `exec`: the next states of all operations, each with the condition it needs. -/
theorem exec_next_cases {i : Instr} {s t : State} (h : exec i s = .next t) (P : Instr → State → Prop)
    (hStatusRd : P .hStatusRd (s.answer (.word s.bridge.status)))
    (hRegWr : ∀ v, P (.hRegWr v) (s.putBridge (s.bridge.captureReg v s.now)).silent)
    (hDataWr : ∀ v, P (.hDataWr v) (s.putBridge (s.bridge.captureData v s.now)).silent)
    (cRegRd : s.bridge.coreReset = false → P .cRegRd (s.answer (.word s.bridge.registerSelect)))
    (cDataRd : s.bridge.coreReset = false →
      P .cDataRd (((s.putBridge s.bridge.clearPending).answer (.word s.bridge.writeData)).emitReady .onConsume
        s.bridge.writePending))
    (cPendRd : s.bridge.coreReset = false → P .cPendRd (s.answer (.bit s.bridge.pendingLine)))
    (cRomRd : s.bridge.coreReset = false →
      P .cRomRd (s.answer (.byte (memRead s.controller.bankSel (.rom (romFullAddress s.bridge.romBank s.bridge.romAddress))))))
    (cRomaddrWr : ∀ v, s.bridge.coreReset = false →
      P (.cRomaddrWr v) (s.putBridge { s.bridge with romAddress := v }).silent)
    (cRombankWr : ∀ v, s.bridge.coreReset = false →
      P (.cRombankWr v) (s.putBridge { s.bridge with romBank := v }).silent)
    (cLeftWr : ∀ v, s.bridge.coreReset = false → P (.cLeftWr v) (s.putBridge { s.bridge with leftData := v }).silent)
    (cRightWr : ∀ v, s.bridge.coreReset = false → P (.cRightWr v) (s.putBridge { s.bridge with rightData := v }).silent)
    (gaWr0 : ∀ v, P (.gaWr0 v) (s.putController ({ s.controller with gateArray0 := v } : Controller).reselect).silent)
    (gaWr1 : ∀ v, P (.gaWr1 v) (s.putController ({ s.controller with gateArray1 := v } : Controller).reselect).silent)
    (kbmWr : ∀ v, P (.kbmWr v) (s.putController { s.controller with
      kbTimer := kbTimerAfterWrite s.controller.kbMatrix v s.now s.controller.kbTimer
      kbMatrix := v }).silent)
    (kbRd : P .kbRd (s.answer (.word (kbData Config.kbVariant sentinelHere s.pins (rowSel s.controller.kbMatrix)))))
    (bankRd : ∀ off, off.toNat < Config.bankWindowSize →
      P (.bankRd off) (s.answer (.byte (memRead s.controller.bankSel (.bank off)))))
    (evRegSync : ∀ c, s.bridge.regCell = some c → cellFires c s.bridge.dataCell s.now = true →
      P .evRegSync (s.putBridge (s.bridge.deliverReg c.value)).silent)
    (evDataSync : ∀ c, s.bridge.dataCell = some c → cellFires c s.bridge.regCell s.now = true →
      P .evDataSync (s.putBridge (s.bridge.deliverData c.value)).silent)
    (evResetRelease : s.bridge.resetTimer = some s.now →
      P .evResetRelease (s.putBridge { s.bridge with coreReset := false, resetTimer := none }).silent)
    (evFrame : P .evFrame
      ((s.emit (.frame (signed16 s.bridge.leftData) (signed16 s.bridge.rightData))).putFrameClock s.frameClock.tick).silent)
    (evKbTick : ∀ rate, s.controller.kbTimer = .armed rate s.now →
      P .evKbTick ((s.putController { s.controller with
        kbTimer := .armed rate (s.now + period rate) }).emit .keyIntPulse).silent)
    (evDeviceReset : P .evDeviceReset
      ((s.putBridge (Bridge.deviceReset s.now)).putController (Controller.deviceReset s.now)).silent) :
    P i t := by
  cases i with
  | hStatusRd => cases h; exact hStatusRd
  | hRegWr v => cases h; exact hRegWr v
  | hDataWr v => cases h; exact hDataWr v
  | cRegRd =>
    simp only [exec, execCRegRd, coreAccess_next] at h
    obtain ⟨hr, rfl⟩ := h
    exact cRegRd hr
  | cDataRd =>
    simp only [exec, execCDataRd, coreAccess_next] at h
    obtain ⟨hr, rfl⟩ := h
    exact cDataRd hr
  | cPendRd =>
    simp only [exec, execCPendRd, coreAccess_next] at h
    obtain ⟨hr, rfl⟩ := h
    exact cPendRd hr
  | cRomRd =>
    simp only [exec, execCRomRd, coreAccess_next] at h
    obtain ⟨hr, rfl⟩ := h
    exact cRomRd hr
  | cRomaddrWr v =>
    simp only [exec, execCRomaddrWr, coreWrite_next] at h
    obtain ⟨hr, rfl⟩ := h
    exact cRomaddrWr v hr
  | cRombankWr v =>
    simp only [exec, execCRombankWr, coreWrite_next] at h
    obtain ⟨hr, rfl⟩ := h
    exact cRombankWr v hr
  | cLeftWr v =>
    simp only [exec, execCLeftWr, coreWrite_next] at h
    obtain ⟨hr, rfl⟩ := h
    exact cLeftWr v hr
  | cRightWr v =>
    simp only [exec, execCRightWr, coreWrite_next] at h
    obtain ⟨hr, rfl⟩ := h
    exact cRightWr v hr
  | gaWr0 v => cases h; exact gaWr0 v
  | gaWr1 v => cases h; exact gaWr1 v
  | kbmWr v => cases h; exact kbmWr v
  | kbRd => cases h; exact kbRd
  | bankRd off =>
    simp only [exec, execBankRd] at h
    split at h
    · cases h
    · next hw => cases h; exact bankRd off (Nat.lt_of_not_le hw)
  | evRegSync =>
    simp only [exec, execEvRegSync] at h
    split at h
    · cases h
    · next c hc =>
      split at h
      · next hf => cases h; exact evRegSync c hc hf
      · cases h
  | evDataSync =>
    simp only [exec, execEvDataSync] at h
    split at h
    · cases h
    · next c hc =>
      split at h
      · next hf => cases h; exact evDataSync c hc hf
      · cases h
  | evResetRelease =>
    simp only [exec, execEvResetRelease, State.emitReady_onResetRelease] at h
    split at h
    · cases h
    · next due hd =>
      split at h
      · next he => subst he; cases h; exact evResetRelease hd
      · cases h
  | evFrame => cases h; exact evFrame
  | evKbTick =>
    simp only [exec, execEvKbTick] at h
    split at h
    · cases h
    · next rate next hk =>
      split at h
      · next he => subst he; cases h; exact evKbTick rate hk
      · cases h
  | evDeviceReset => cases h; exact evDeviceReset

end Sys2Proof.Machine
end

