-- ==== Sys2Proof/Laws/Fetch.lean ====
section
/-! SUPPORT. What the fetch can answer, said once. -/

namespace Sys2Proof.Machine

/-- The earlier of two armed timers is one of them, and neither is before it. -/
theorem firstDue_some {a b : Option Due} {d : Due} (h : firstDue a b = some d) :
    (a = some d ∨ b = some d) ∧ (∀ x, a = some x → d.due ≤ x.due) ∧ (∀ x, b = some x → d.due ≤ x.due) := by
  cases a with
  | none =>
    cases b with
    | none => simp [firstDue] at h
    | some y => simp_all [firstDue]
  | some x =>
    cases b with
    | none => simp_all [firstDue]
    | some y =>
      simp only [firstDue] at h
      split at h
      · simp_all
        linarith
      · simp_all

theorem firstDue_none {a b : Option Due} (h : firstDue a b = none) : a = none ∧ b = none := by
  cases a <;> cases b <;> simp [firstDue] at h ⊢
  split at h <;> simp at h

/-- Where the first of two is not the earlier, the second is, strictly. -/
theorem firstDue_right {a b : Option Due} {d : Due} (h : firstDue a b = some d) (ha : a ≠ some d) :
    b = some d ∧ ∀ x, a = some x → d.due < x.due := by
  cases a with
  | none => exact ⟨h, by simp⟩
  | some x =>
    cases b with
    | none => exact absurd h ha
    | some y =>
      simp only [firstDue] at h
      split at h
      · next hlt => cases h; exact ⟨rfl, fun z hz => by cases hz; exact hlt⟩
      · exact absurd h ha

/-- The first cell to fire is full, and the other full cell is not due before it, nor at one instant with a lower number. -/
theorem cellDue_some {b : Bridge} {d : Due} (h : cellDue b = some d) :
    (d.event = .evRegSync ∧ ∃ c, b.regCell = some c ∧ c.due = d.due ∧
      ∀ o, b.dataCell = some o → d.due ≤ o.due ∧ (o.due = d.due → c.seq ≤ o.seq)) ∨
    (d.event = .evDataSync ∧ ∃ c, b.dataCell = some c ∧ c.due = d.due ∧
      ∀ o, b.regCell = some o → d.due ≤ o.due ∧ (o.due = d.due → c.seq ≤ o.seq)) := by
  unfold cellDue at h
  split at h
  · simp at h
  · next r hr hd => cases h; exact .inl ⟨rfl, r, hr, rfl, by simp [hd]⟩
  · next x hr hd => cases h; exact .inr ⟨rfl, x, hd, rfl, by simp [hr]⟩
  · next r x hr hd =>
    split at h
    · next hlt =>
      cases h
      refine .inr ⟨rfl, x, hd, rfl, ?_⟩
      intro o ho
      rw [hr] at ho; cases ho
      rcases hlt with hlt | ⟨heq, hseq⟩
      · exact ⟨hlt.le, fun h => absurd h.symm hlt.ne⟩
      · exact ⟨heq.le, fun _ => hseq.le⟩
    · next hge =>
      cases h
      refine .inl ⟨rfl, r, hr, rfl, ?_⟩
      intro o ho
      rw [hd] at ho; cases ho
      push Not at hge
      exact ⟨hge.1, fun h => hge.2 h⟩

theorem cellDue_none {b : Bridge} (h : cellDue b = none) : b.regCell = none ∧ b.dataCell = none := by
  unfold cellDue at h
  split at h
  · next hr hd => exact ⟨hr, hd⟩
  · simp at h
  · simp at h
  · split at h <;> simp at h

theorem kbDue_some {c : Controller} {d : Due} (h : kbDue c = some d) :
    d.event = .evKbTick ∧ ∃ rate, c.kbTimer = .armed rate d.due := by
  unfold kbDue at h
  split at h
  · simp at h
  · next rate next hk => cases h; exact ⟨rfl, rate, hk⟩

theorem resetDue_some {b : Bridge} {d : Due} (h : resetDue b = some d) :
    d.event = .evResetRelease ∧ b.resetTimer = some d.due := by
  unfold resetDue at h
  cases hb : b.resetTimer with
  | none => simp [hb] at h
  | some x => simp [hb] at h; cases h; exact ⟨rfl, rfl⟩

theorem frameDue_some {c : FrameClock} {d : Due} (h : frameDue c = some d) : d.event = .evFrame ∧ c = .running d.due := by
  cases c with
  | onRequest => cases h
  | running next => cases h; exact ⟨rfl, rfl⟩

/-- The earlier of two is there as soon as one of them is. -/
theorem firstDue_of_some {a b : Option Due} {x : Due} (h : a = some x ∨ b = some x) :
    ∃ d, firstDue a b = some d ∧ d.due ≤ x.due := by
  cases hf : firstDue a b with
  | none => obtain ⟨h1, h2⟩ := firstDue_none hf; simp [h1, h2] at h
  | some d =>
    obtain ⟨-, ha, hb⟩ := firstDue_some hf
    exact ⟨d, rfl, h.elim (ha x) (hb x)⟩

/-- The next timer event is that of an armed timer or of a running frame clock, and none is due before it. -/
theorem nextDue_some {s : State} {d : Due} (h : nextDue s = some d) :
    (cellDue s.bridge = some d ∨ resetDue s.bridge = some d ∨ kbDue s.controller = some d ∨ frameDue s.frameClock = some d) ∧
    (∀ e t, dueOf e s = some t → d.due ≤ t) := by
  obtain ⟨hor, hc, hrkf⟩ := firstDue_some h
  have hor' : cellDue s.bridge = some d ∨ resetDue s.bridge = some d ∨ kbDue s.controller = some d ∨
      frameDue s.frameClock = some d :=
    hor.imp id fun h1 => (firstDue_some h1).1.imp id fun h2 => (firstDue_some h2).1
  have hkf : ∀ x, (kbDue s.controller = some x ∨ frameDue s.frameClock = some x) → d.due ≤ x.due := by
    intro x hx
    obtain ⟨y, hy, hyx⟩ := firstDue_of_some hx
    obtain ⟨z, hz, hzy⟩ := firstDue_of_some (a := resetDue s.bridge) (.inr hy)
    exact (hrkf z hz).trans (hzy.trans hyx)
  have hr : ∀ x, resetDue s.bridge = some x → d.due ≤ x.due := by
    intro x hx
    obtain ⟨z, hz, hzx⟩ := firstDue_of_some (b := firstDue (kbDue s.controller) (frameDue s.frameClock)) (.inl hx)
    exact (hrkf z hz).trans hzx
  refine ⟨hor', ?_⟩
  intro e t het
  cases e <;> simp only [dueOf, Option.map_eq_some_iff, reduceCtorEq] at het
  case evRegSync =>
    obtain ⟨r, hr, rfl⟩ := het
    cases hcd : cellDue s.bridge with
    | none => simp [(cellDue_none hcd).1] at hr
    | some x =>
      have := hc x hcd
      rcases cellDue_some hcd with ⟨_, c, hc', hcx, _⟩ | ⟨_, c, hc', hcx, ho⟩
      · rw [hr] at hc'; cases hc'; rw [hcx]; exact this
      · exact this.trans (ho r hr).1
  case evDataSync =>
    obtain ⟨r, hr, rfl⟩ := het
    cases hcd : cellDue s.bridge with
    | none => simp [(cellDue_none hcd).2] at hr
    | some x =>
      have := hc x hcd
      rcases cellDue_some hcd with ⟨_, c, hc', hcx, ho⟩ | ⟨_, c, hc', hcx, _⟩
      · exact this.trans (ho r hr).1
      · rw [hr] at hc'; cases hc'; rw [hcx]; exact this
  case evResetRelease => exact hr ⟨t, .evResetRelease⟩ (by simp [resetDue, het])
  case evKbTick => obtain ⟨x, hx, rfl⟩ := het; exact hkf x (.inl hx)
  case evFrame => obtain ⟨x, hx, rfl⟩ := het; exact hkf x (.inr hx)

/-- With no next timer event no timer is armed and no frame clock runs. -/
theorem nextDue_none {s : State} (h : nextDue s = none) (e : Instr) : dueOf e s = none := by
  obtain ⟨hc, hrkf⟩ := firstDue_none h
  obtain ⟨hr, hkf⟩ := firstDue_none hrkf
  obtain ⟨hk, hf⟩ := firstDue_none hkf
  obtain ⟨h1, h2⟩ := cellDue_none hc
  have h3 : s.bridge.resetTimer = none := by simpa [resetDue] using hr
  cases e <;> simp [dueOf, h1, h2, h3, hk, hf]

/-- The event of the next timer event is due when it says. -/
theorem dueOf_nextDue {s : State} {d : Due} (h : nextDue s = some d) : dueOf d.event s = some d.due := by
  rcases (nextDue_some h).1 with hc | hr | hk | hf
  · rcases cellDue_some hc with ⟨he, c, hc', hd, _⟩ | ⟨he, c, hc', hd, _⟩ <;> simp [he, dueOf, hc', hd]
  · obtain ⟨he, hb⟩ := resetDue_some hr; simp [he, dueOf, hb]
  · obtain ⟨he, rate, hb⟩ := kbDue_some hk; simp [he, dueOf, hk]
  · obtain ⟨he, hb⟩ := frameDue_some hf; simp [he, dueOf, hf]

/-- The next timer event completes at its due instant, and leaves the pending lines. -/
theorem exec_nextDue {s : State} {d : Due} (h : nextDue s = some d) :
    ∃ u, exec d.event { s with now := d.due } = .next u ∧ u.pending = s.pending := by
  rcases (nextDue_some h).1 with hc | hr | hk | hf
  · rcases cellDue_some hc with ⟨he, c, hc', hd, ho⟩ | ⟨he, c, hc', hd, ho⟩
    · have : cellFires c s.bridge.dataCell d.due = true := cellFires_iff.mpr ⟨hd, fun o h h' => (ho o h).2 h'⟩
      simp [he, exec, execEvRegSync, hc', this]
    · have : cellFires c s.bridge.regCell d.due = true := cellFires_iff.mpr ⟨hd, fun o h h' => (ho o h).2 h'⟩
      simp [he, exec, execEvDataSync, hc', this]
  · obtain ⟨he, hb⟩ := resetDue_some hr
    simp [he, exec, execEvResetRelease, hb]
  · obtain ⟨he, rate, hb⟩ := kbDue_some hk
    simp [he, exec, execEvKbTick, hb]
  · simp [(frameDue_some hf).1, exec, execEvFrame]

/-- The timers are all due after the power-up instant where each of the five is. -/
theorem dueLater_of {s : State} (regCell : ∀ c, s.bridge.regCell = some c → 0 < c.due)
    (dataCell : ∀ c, s.bridge.dataCell = some c → 0 < c.due) (resetTimer : ∀ t, s.bridge.resetTimer = some t → 0 < t)
    (kbTimer : ∀ rate t, s.controller.kbTimer = .armed rate t → 0 < t)
    (frameClock : ∀ t, s.frameClock = .running t → 0 < t) : ∀ e due, dueOf e s = some due → 0 < due := by
  intro e due h
  cases e <;> simp only [dueOf, Option.map_eq_some_iff, reduceCtorEq] at h
  case evRegSync => obtain ⟨c, hc, rfl⟩ := h; exact regCell c hc
  case evDataSync => obtain ⟨c, hc, rfl⟩ := h; exact dataCell c hc
  case evResetRelease => exact resetTimer due h
  case evKbTick => obtain ⟨d, hd, rfl⟩ := h; exact kbTimer _ _ (kbDue_some hd).2.choose_spec
  case evFrame => obtain ⟨d, hd, rfl⟩ := h; exact frameClock _ (frameDue_some hd).2

/-- A timer event moves no due instant but its own. -/
theorem dueOf_of_nextDue {s u : State} {d : Due} (hn : nextDue s = some d) (h : exec d.event { s with now := d.due } = .next u)
    {e : Instr} (hne : e ≠ d.event) : dueOf e u = dueOf e s := by
  rcases (nextDue_some hn).1 with hc | hr | hk | hf
  · rcases cellDue_some hc with ⟨he, c, hc', hd, ho⟩ | ⟨he, c, hc', hd, ho⟩
    · have : cellFires c s.bridge.dataCell d.due = true := cellFires_iff.mpr ⟨hd, fun o h h' => (ho o h).2 h'⟩
      simp [he, exec, execEvRegSync, hc', this] at h hne
      subst h
      cases e <;> simp [dueOf, kbDue, Bridge.deliverReg] at hne ⊢
    · have : cellFires c s.bridge.regCell d.due = true := cellFires_iff.mpr ⟨hd, fun o h h' => (ho o h).2 h'⟩
      simp [he, exec, execEvDataSync, hc', this] at h hne
      subst h
      cases e <;> simp [dueOf, kbDue, Bridge.deliverData, Bridge.setPending] at hne ⊢
  · obtain ⟨he, hb⟩ := resetDue_some hr
    simp [he, exec, execEvResetRelease, hb] at h hne
    subst h
    cases e <;> simp [dueOf, kbDue] at hne ⊢
  · obtain ⟨he, rate, hb⟩ := kbDue_some hk
    simp [he, exec, execEvKbTick, hb] at h hne
    subst h
    cases e <;> simp [dueOf] at hne ⊢
  · have he := (frameDue_some hf).1
    simp [he, exec, execEvFrame] at h hne
    subst h
    cases e <;> simp [dueOf, kbDue] at hne ⊢

/-- Free instants are not past. -/
theorem le_freeInstant (a : Agent) (earliest : Time) (s : State) : s.now ≤ freeInstant a earliest s := le_max_left _ _

/-- A line of a bus never takes place, at a free instant, when its bus was in use, where it may not come before the last use. -/
theorem lastUse_ne_freeInstant {a : Agent} {earliest : Time} {s : State}
    (h : ∀ u, s.lines.lastUse a = some u → u ≤ earliest) : s.lines.lastUse a ≠ some (freeInstant a earliest s) := by
  intro hu
  have hle : earliest + freeGap (decide (s.lines.lastUse a = some earliest)) s.lines.taken ≤ freeInstant a earliest s :=
    le_max_right _ _
  have hge := freeGap_nonneg (decide (s.lines.lastUse a = some earliest)) s.lines.taken
  have heq : freeInstant a earliest s = earliest := le_antisymm (h _ hu) (by linarith)
  rw [heq] at hu hle
  have := freeGap_pos s.lines.taken
  simp only [hu, decide_true] at hle
  linarith

/-- Time passing to an instant before a free one does not move it. -/
theorem freeInstant_advanceTo {a : Agent} {earliest t : Time} {s : State} (h : s.now ≤ t) (ht : t ≤ freeInstant a earliest s) :
    freeInstant a earliest (s.advanceTo t) = freeInstant a earliest s := by
  unfold freeInstant at ht ⊢
  simp only [State.advanceTo_now, State.advanceTo_lines]
  refine le_antisymm (max_le ht (le_max_right _ _)) (max_le (h.trans (le_max_left _ _)) (le_max_right _ _))

/-- A timer event that must fire first is the block's next one, is another operation's, and is due no later. -/
theorem ownFirst_some {i : Instr} {t : Time} {s : State} {d : Due} (h : ownFirst i t s = some d) :
    nextDue s = some d ∧ d.event ≠ i ∧ (d.due < t ∨ (d.due = t ∧ precedesAtTie d.event i = true)) := by
  unfold ownFirst at h
  split at h
  · simp at h
  · split at h
    · simp at h
    · next x hx =>
      split at h
      · simp at h
      · next hne =>
        split at h
        · next hlt => cases h; exact ⟨hx, hne, hlt⟩
        · simp at h

/-- Where none must fire first, no armed timer is overdue at `t`, but for the operation's own. -/
theorem ownFirst_none {i : Instr} {t : Time} {s : State} (hs : ∀ e u, dueOf e s = some u → 0 < u)
    (h : ownFirst i t s = none) : (∀ e u, dueOf e s = some u → t ≤ u) ∨ ∃ d, nextDue s = some d ∧ d.event = i := by
  unfold ownFirst at h
  split at h
  · next h0 => exact .inl fun e u he => h0 ▸ (hs e u he).le
  · split at h
    · next hn => exact .inl fun e u he => by simp [nextDue_none hn e] at he
    · next x hx =>
      split at h
      · next he => exact .inr ⟨x, hx, he⟩
      · split at h
        · simp at h
        · next hge =>
          push Not at hge
          exact .inl fun e u he => hge.1.trans ((nextDue_some hx).2 e u he)

/-- No timer event need fire first where all are due after `t`, but for the operation's own at `t`. -/
theorem ownFirst_eq_none {i : Instr} {t : Time} {s : State}
    (h : ∀ e u, dueOf e s = some u → (e = i ∧ u = t) ∨ t < u) : ownFirst i t s = none := by
  cases ho : ownFirst i t s with
  | none => rfl
  | some d =>
    obtain ⟨hn, hne, hle⟩ := ownFirst_some ho
    rcases h _ _ (dueOf_nextDue hn) with ⟨he, -⟩ | hlt
    · exact absurd he hne
    · rcases hle with hle | ⟨hle, -⟩ <;> linarith

/-- What one step can do, said once: it runs the next timer event at its due instant, the pending lines kept; or the first
pending line at its instant, with no other timer event before it, at its due instant if it is a timer's own event, and on a bus
not used at that instant. -/
theorem step_next {s t : State} (h : step s = .next t) :
    (∃ d, nextDue s = some d ∧ exec d.event (s.advanceTo d.due) = .next t) ∨
    (∃ tr rest i u, s.pending = tr :: rest ∧ decode tr.word = .ok i ∧ lineInstant tr i s = u ∧ s.now ≤ u ∧
      ownFirst i u s = none ∧ (∀ v, dueOf i s = some v → v = u) ∧ s.lines.lastUse (agentOf i) ≠ some u ∧
      exec i (((s.advanceTo u).takeLine (agentOf i) u).present tr.pins rest) = .next t) := by
  unfold step at h
  split at h
  · next i s' hf =>
    unfold fetch at hf
    split at hf
    · split at hf
      · next d hd => cases hf; exact .inl ⟨d, hd, h⟩
      · simp at hf
    · next tr rest hp =>
      split at hf
      · simp at hf
      · next j hj =>
        simp only [fetchLine] at hf
        split at hf
        · next d hd => cases hf; exact .inl ⟨d, (ownFirst_some hd).1, h⟩
        · next hn =>
          split at hf
          · simp at hf
          · next hge =>
            split at hf
            · simp at hf
            · next ho =>
              split at hf
              · simp at hf
              · next hb =>
                cases hf
                refine .inr ⟨tr, rest, i, _, hp, hj, rfl, not_lt.mp hge, hn, ?_, hb, h⟩
                intro v hv
                simpa [offDue, hv] using ho
  · simp at h
  · simp at h

end Sys2Proof.Machine
end

