-- ==== Sys2Proof/Laws/PerInstr.lean ====
section
/-! SUPPORT. Facts said instruction by instruction. -/

namespace Sys2Proof.Laws.ClassNibble

/-- `op[7:4]` is the interface class of the operation's agent (R94, R8). -/
def Statement (i : Instr) : Prop := (opField (encode i)).extractLsb' 4 4 = interfaceClass (agentOf i)

theorem hStatusRd : Statement .hStatusRd := by simp only [Statement, opField_encode, opNumber, agentOf, interfaceClass]; decide

theorem hRegWr (v : Half) : Statement (.hRegWr v) := by simp only [Statement, opField_encode, opNumber, agentOf, interfaceClass]; decide

theorem hDataWr (v : Half) : Statement (.hDataWr v) := by simp only [Statement, opField_encode, opNumber, agentOf, interfaceClass]; decide

theorem cRegRd : Statement .cRegRd := by simp only [Statement, opField_encode, opNumber, agentOf, interfaceClass]; decide

theorem cDataRd : Statement .cDataRd := by simp only [Statement, opField_encode, opNumber, agentOf, interfaceClass]; decide

theorem cPendRd : Statement .cPendRd := by simp only [Statement, opField_encode, opNumber, agentOf, interfaceClass]; decide

theorem cRomRd : Statement .cRomRd := by simp only [Statement, opField_encode, opNumber, agentOf, interfaceClass]; decide

theorem cRomaddrWr (v : Half) : Statement (.cRomaddrWr v) := by simp only [Statement, opField_encode, opNumber, agentOf, interfaceClass]; decide

theorem cRombankWr (v : Half) : Statement (.cRombankWr v) := by simp only [Statement, opField_encode, opNumber, agentOf, interfaceClass]; decide

theorem cLeftWr (v : Half) : Statement (.cLeftWr v) := by simp only [Statement, opField_encode, opNumber, agentOf, interfaceClass]; decide

theorem cRightWr (v : Half) : Statement (.cRightWr v) := by simp only [Statement, opField_encode, opNumber, agentOf, interfaceClass]; decide

theorem gaWr0 (v : Byte) : Statement (.gaWr0 v) := by simp only [Statement, opField_encode, opNumber, agentOf, interfaceClass]; decide

theorem gaWr1 (v : Byte) : Statement (.gaWr1 v) := by simp only [Statement, opField_encode, opNumber, agentOf, interfaceClass]; decide

theorem kbmWr (v : Byte) : Statement (.kbmWr v) := by simp only [Statement, opField_encode, opNumber, agentOf, interfaceClass]; decide

theorem kbRd : Statement .kbRd := by simp only [Statement, opField_encode, opNumber, agentOf, interfaceClass]; decide

theorem bankRd (v : Half) : Statement (.bankRd v) := by simp only [Statement, opField_encode, opNumber, agentOf, interfaceClass]; decide

theorem evRegSync : Statement .evRegSync := by simp only [Statement, opField_encode, opNumber, agentOf, interfaceClass]; decide

theorem evDataSync : Statement .evDataSync := by simp only [Statement, opField_encode, opNumber, agentOf, interfaceClass]; decide

theorem evResetRelease : Statement .evResetRelease := by simp only [Statement, opField_encode, opNumber, agentOf, interfaceClass]; decide

theorem evFrame : Statement .evFrame := by simp only [Statement, opField_encode, opNumber, agentOf, interfaceClass]; decide

theorem evKbTick : Statement .evKbTick := by simp only [Statement, opField_encode, opNumber, agentOf, interfaceClass]; decide

theorem evDeviceReset : Statement .evDeviceReset := by simp only [Statement, opField_encode, opNumber, agentOf, interfaceClass]; decide

end Sys2Proof.Laws.ClassNibble
end

