-- ==== Sys2Proof/WellFormed.lean ====
section
/-! DEFINITION. When an operation's operands are defined (spec/30_encoding.md R93, R99, R105). The operand widths are in the
types of `Instr`; the one further condition is that `BANK_RD` names an offset inside the window. -/

namespace Sys2Proof

/-- Well-formedness for a window of `window` bytes: `BANK_RD` needs `off < window`, nothing else needs anything. -/
def Instr.wellFormedIn (window : Nat) : Instr → Bool
  | .bankRd off => decide (off.toNat < window)
  | .hStatusRd | .hRegWr _ | .hDataWr _ | .cRegRd | .cDataRd | .cPendRd | .cRomRd | .cRomaddrWr _ | .cRombankWr _
  | .cLeftWr _ | .cRightWr _ | .gaWr0 _ | .gaWr1 _ | .kbmWr _ | .kbRd | .evRegSync | .evDataSync | .evResetRelease
  | .evFrame | .evKbTick | .evDeviceReset => true

/-- Well-formedness on this hardware: the window has `BANK_WINDOW_SIZE` bytes. -/
def Instr.wellFormed (i : Instr) : Bool := i.wellFormedIn Config.bankWindowSize

end Sys2Proof
end

