-- ==== Sys2Proof/Tests/Slice0.lean ====
section
/-! SUPPORT. The model's own tests. Expected values are the spec's words, tables and vectors, named at each test. -/

namespace Sys2Proof.Tests

open Sys2Proof Sys2Proof.Machine

/-! Small states. -/

/-- The Bridge with the core released and nothing in flight. -/
def bridge0 : Bridge :=
  { registerSelect := 0, writeData := 0, writePending := false, romAddress := 0, romBank := 0, leftData := 0, rightData := 0,
    regCell := none, dataCell := none, nextSeq := 0, coreReset := false, resetTimer := none }

/-- The Controller with nothing selected and the scan timer disarmed. -/
def controller0 : Controller :=
  { kbMatrix := 0, gateArray0 := 0, gateArray1 := 0, bankSel := .internal, kbTimer := .disarmed }

/-- The inputs of vector T7: `KeyRow(1) = 0x0001`, `KeyRow(9) = 0x0004`, contact at X 0x80, Y 0xC0. -/
def pins7 : Pins :=
  { rows := #v[0, 1, 0, 0, 0, 0, 0, 0, 0, 4, 0, 0, 0, 0, 0, 0], tsX := 0x80, tsY := 0xC0, tsContact := true }

def bench : State :=
  { bridge := bridge0, controller := controller0, now := 0, pins := pins7, frameClock := .onRequest,
    lines := { last := 0, hostA := none, core := none, hostB := none, taken := 0 }, pending := [], reply := none, outputs := [] }

def withBridge (b : Bridge) : State := { bench with bridge := b }

def withController (c : Controller) : State := { bench with controller := c }

/-- A line with no stated instant. -/
def line (w : TWord) : Transaction := ⟨.later none 0, w, pins7⟩

/-- A line at the present instant. -/
def atOnce (w : TWord) : Transaction := ⟨.atOnce, w, pins7⟩

/-- A line at `t`. -/
def lineAt (t : Time) (w : TWord) : Transaction := ⟨.exactly (some t) 0, w, pins7⟩

/-- The state a result goes on in. -/
def nextOf : Result → Option State
  | .next s => some s
  | .fault _ => none
  | .refused _ => none

/-- The fault a result stops with. -/
def faultOf : Result → Option Fault
  | .fault f => some f
  | .next _ => none
  | .refused _ => none

/-! Well-formedness: an ill-formed term for the one check. -/

theorem test_wellFormed_refuses_outside_window : (Instr.bankRd 0x0010#16).wellFormedIn 16 = false := by decide

theorem test_wellFormed_admits_last_offset : (Instr.bankRd 0x000F#16).wellFormedIn 16 = true := by decide

/-! Decoding: one word a constructor, written out from R95. -/

theorem test_decode_bridge_host :
    decode 0x00ABCD#24 = .ok .hStatusRd ∧ decode 0x010012#24 = .ok (.hRegWr 0x0012) ∧
    decode 0x02BEEF#24 = .ok (.hDataWr 0xBEEF) ∧ decode 0x300000#24 = .ok .evRegSync ∧
    decode 0x310000#24 = .ok .evDataSync := by decide

theorem test_decode_bridge_core :
    decode 0x100000#24 = .ok .cRegRd ∧ decode 0x110000#24 = .ok .cDataRd ∧ decode 0x120000#24 = .ok .cPendRd ∧
    decode 0x130000#24 = .ok .cRomRd ∧ decode 0x141234#24 = .ok (.cRomaddrWr 0x1234) ∧
    decode 0x150002#24 = .ok (.cRombankWr 0x0002) ∧ decode 0x160064#24 = .ok (.cLeftWr 0x0064) ∧
    decode 0x17FFCE#24 = .ok (.cRightWr 0xFFCE) := by decide

theorem test_decode_controller :
    decode 0x2001FF#24 = .ok (.gaWr0 0xFF) ∧ decode 0x210001#24 = .ok (.gaWr1 0x01) ∧
    decode 0x220180#24 = .ok (.kbmWr 0x80) ∧ decode 0x230000#24 = .ok .kbRd ∧
    decode 0x240010#24 = .ok (.bankRd 0x0010) ∧ decode 0x340000#24 = .ok .evKbTick := by decide

theorem test_decode_reset_and_frame :
    decode 0x320000#24 = .ok .evResetRelease ∧ decode 0x330000#24 = .ok .evFrame ∧
    decode 0x3F0000#24 = .ok .evDeviceReset := by decide

/-- V12 and the ends of the ranges of R103. -/
theorem test_decode_reserved :
    decode 0x030000#24 = .error (.reserved 0x03) ∧ decode 0x0F0000#24 = .error (.reserved 0x0F) ∧
    decode 0x180000#24 = .error (.reserved 0x18) ∧ decode 0x1F0000#24 = .error (.reserved 0x1F) ∧
    decode 0x250000#24 = .error (.reserved 0x25) ∧ decode 0x2F0000#24 = .error (.reserved 0x2F) ∧
    decode 0x350000#24 = .error (.reserved 0x35) ∧ decode 0x3E0000#24 = .error (.reserved 0x3E) ∧
    decode 0x400000#24 = .error (.reserved 0x40) ∧ decode 0xFF0000#24 = .error (.reserved 0xFF) := by decide

theorem test_encode_is_canonical :
    encode (.gaWr0 0xFF) = 0x2000FF#24 ∧ encode .kbRd = 0x230000#24 ∧ encode (.hRegWr 0xFFFF) = 0x01FFFF#24 := by decide

theorem test_decodeTableWord : decodeTableWord 24 0x240010 = some (.bankRd 0x0010) ∧ decodeTableWord 24 0x250000 = none := by
  decide

/-- R102: `GEN 2`, `H_WRITE`, and a `WAIT` before a line (R101). -/
theorem test_pseudo_expand : (Pseudo.gen 2).expand.map encode = [0x330000#24, 0x330000#24] ∧
    (Pseudo.hWrite 0x0012 0xBEEF).expand.map encode = [0x010012#24, 0x02BEEF#24] ∧
    (Pseudo.cRomAt 0x0002 0x1234).expand.map encode = [0x150002#24, 0x141234#24, 0x130000#24] ∧
    (Pseudo.gaWr 1 0x01).expand.map encode = [0x210001#24] := by decide

theorem test_assemble_wait :
    assemble pins7 (.later none 0) [.op (some 5) .kbRd, .wait 2, .op none .kbRd, .op none .kbRd] =
      [lineAt 5 0x230000#24, ⟨.exactly none 2, 0x230000#24, pins7⟩, line 0x230000#24] := by decide +kernel

/-- R102: `GEN 0` is a line with an instant of its own, and the frames of one request come together. -/
theorem test_assemble_gen :
    assemble pins7 (.later none 0) [.pseudo (some 5) (.gen 0), .wait 2, .op none .kbRd] =
      [⟨.exactly (some 5) 2, 0x230000#24, pins7⟩] ∧
    assemble pins7 (.later none 0) [.pseudo (some 5) (.gen 2)] =
      [lineAt 5 0x330000#24, atOnce 0x330000#24] := by decide +kernel

/-- R102: `WAIT 2` after a line at 1/2, which may have been an event line that stated no instant. -/
theorem test_wait_counts_from_the_line_before :
    lineInstant ⟨.exactly none 2, 0x230000#24, pins7⟩ .kbRd { bench with lines := bench.lines.take .kbTimer (1 / 2) } =
      5 / 2 := by decide +kernel

/-! The Bridge's host side (V1, V2). -/

theorem test_status : statusWord true false = 0x0001#16 ∧ statusWord true true = 0x0000#16 ∧
    statusWord false false = 0x0000#16 ∧ statusWord false true = 0x0001#16 := by decide

theorem test_hStatusRd_pending :
    (nextOf (exec .hStatusRd (withBridge { bridge0 with writePending := true }))).map State.reply =
      some (some (.word 0x0000#16)) := by decide

theorem test_hRegWr_supersedes : (nextOf (exec (.hRegWr 0x0002) (withBridge
      { bridge0 with regCell := some ⟨0x0001, 110, 0⟩, nextSeq := 1 }))).map
        (fun t => (t.bridge.regCell.map (fun c => (c.value, c.seq)), t.bridge.registerSelect, t.bridge.nextSeq)) =
      some (some (0x0002#16, 1), 0x0000#16, 2) := by decide

theorem test_hDataWr_defers : (nextOf (exec (.hDataWr 0xBEEF) bench)).map
      (fun t => (t.bridge.dataCell.map Cell.value, t.bridge.writeData, t.bridge.writePending)) =
      some (some 0xBEEF#16, 0x0000#16, false) := by decide

/-- Both cells due now, the register's with the lower number. -/
def bothDue : State := withBridge
  { bridge0 with regCell := some ⟨0x0012, 0, 0⟩, dataCell := some ⟨0xBEEF, 0, 1⟩, nextSeq := 2, writePending := true }

theorem test_evRegSync_first : (nextOf (exec .evRegSync bothDue)).map
      (fun t => (t.bridge.registerSelect, t.bridge.regCell, t.bridge.dataCell.isSome)) = some (0x0012#16, none, true) := by
  decide +kernel

theorem test_evDataSync_waits : nextOf (exec .evDataSync bothDue) = none := by decide +kernel

/-- V2 step 4: a zero value still raises the flag. -/
theorem test_evDataSync_zero : (nextOf (exec .evDataSync (withBridge { bridge0 with dataCell := some ⟨0, 0, 1⟩ }))).map
      (fun t => (t.bridge.writeData, t.bridge.writePending, t.bridge.dataCell)) = some (0x0000#16, true, none) := by
  decide +kernel

/-! The Bridge's core side (V3, V4). -/

theorem test_cRegRd : (nextOf (exec .cRegRd (withBridge { bridge0 with registerSelect := 0x0012 }))).map State.reply =
    some (some (.word 0x0012#16)) := by decide

theorem test_cDataRd_keeps_cell : (nextOf (exec .cDataRd (withBridge
      { bridge0 with writeData := 0x1234, writePending := true, dataCell := some ⟨0x5678, 9, 3⟩ }))).map
        (fun t => (t.reply, t.bridge.writePending, t.bridge.dataCell.isSome, t.outputs)) =
      some (some (.word 0x1234#16), false, true, [.ready]) := by decide

theorem test_cDataRd_stale : (nextOf (exec .cDataRd (withBridge { bridge0 with writeData := 0x1234 }))).map
      (fun t => (t.reply, t.outputs)) = some (some (.word 0x1234#16), []) := by decide

theorem test_cPendRd : (nextOf (exec .cPendRd (withBridge { bridge0 with writePending := true }))).map State.reply =
    some (some (.bit true)) := by decide

theorem test_cRomRd_address : romFullAddress 0x0002 0x1234 = 0x00021234#32 ∧
    romFullAddress 0xFFFF 0xFFFF = 0xFFFFFFFF#32 ∧ romFullAddress 0x0001 0x0000 = 0x00010000#32 := by decide

theorem test_cRomRd : (nextOf (exec .cRomRd (withBridge { bridge0 with romBank := 2, romAddress := 0x1234 }))).map State.reply =
    some (some (.byte (Config.rom 0x00021234#32))) := rfl

theorem test_romByteOnCoreBus : romByteOnCoreBus .sign 0x80 = some 0xFF80#16 ∧ romByteOnCoreBus .zero 0x80 = some 0x0080#16 := by
  decide

theorem test_cRomaddrWr : (nextOf (exec (.cRomaddrWr 0x1235) (withBridge { bridge0 with romBank := 2 }))).map
    (fun t => (t.bridge.romBank, t.bridge.romAddress)) = some (0x0002#16, 0x1235#16) := by decide

theorem test_cRombankWr : (nextOf (exec (.cRombankWr 0x0003) (withBridge { bridge0 with romAddress := 0x1234 }))).map
    (fun t => (t.bridge.romBank, t.bridge.romAddress)) = some (0x0003#16, 0x1234#16) := by decide

theorem test_cLeftWr : (nextOf (exec (.cLeftWr 0x8000) (withBridge { bridge0 with rightData := 0xFFCE }))).map
    (fun t => (signed16 t.bridge.leftData, signed16 t.bridge.rightData)) = some (-32768, -50) := by decide

theorem test_cRightWr : (nextOf (exec (.cRightWr 0xFFCE) (withBridge { bridge0 with leftData := 0x0064 }))).map
    (fun t => (signed16 t.bridge.leftData, signed16 t.bridge.rightData)) = some (100, -50) := by decide

theorem test_core_held : exec .cPendRd (withBridge { bridge0 with coreReset := true }) = .fault .coreHeldInReset := rfl

/-! The sampler (V5). -/

theorem test_evFrame : (nextOf (exec .evFrame (withBridge { bridge0 with leftData := 0x7FFF, rightData := 0x8000 }))).map
    State.outputs = some [.frame 32767 (-32768)] := by decide

/-! The gate array (V6, T3). -/

theorem test_bankOf : bankOf true true 0xFF 0x01 = .card1 ∧ bankOf false true 0x01 0x01 = .card2 ∧
    bankOf true true 0x00 0x01 = .card2 ∧ bankOf false false 0x01 0x01 = .internal ∧ bankOf true true 0 0 = .internal := by
  decide

theorem test_gaWr0_masked : (decode 0x200180#24).toOption.map (fun i => (nextOf (exec i bench)).map (·.controller.gateArray0)) =
    some (some 0x80#8) := by decide

theorem test_gaWr1 : (nextOf (exec (.gaWr1 0x01) bench)).map (fun t => (t.controller.gateArray0, t.controller.gateArray1)) =
    some (0x00#8, 0x01#8) := by decide

theorem test_bankRd_same_offset : (nextOf (exec (.bankRd 0) (withController { controller0 with bankSel := .card2 }))).map
    State.reply = some (some (.byte (Config.regionCard2 0))) := rfl

/-! The keyboard (V7 to V10, T7). -/

theorem test_kbmWr_slow : (nextOf (exec (.kbmWr 0x40) (withController { controller0 with kbMatrix := 0x80 }))).map
    (fun t => (t.controller.kbTimer, t.controller.kbMatrix)) = some (.armed .slow (1 / 32), 0x40#8) := by decide +kernel

theorem test_kbmWr_active : (nextOf (exec (.kbmWr 0x40) (withController { controller0 with kbMatrix := 0xC0 }))).map
    (fun t => (t.controller.kbTimer, t.controller.kbMatrix)) = some (.armed .active (1 / 192), 0x40#8) := by decide +kernel

theorem test_evKbTick : (nextOf (exec .evKbTick { withController { controller0 with kbTimer := .armed .fast 1 } with now := 1 })).map
    (fun t => (t.controller.kbTimer, t.outputs)) = some (.armed .fast (257 / 256), [.keyIntPulse]) := by decide +kernel

theorem test_tsRead : tsRead pins7 9 = 0x8000#16 ∧ tsRead pins7 5 = 0x0000#16 ∧
    tsRead { pins7 with tsX := 0x3F, tsY := 0x3F } 7 = 0x1000#16 ∧ tsRead { pins7 with tsX := 0xC0, tsY := 0x7F } 10 = 0x2000#16 ∧
    tsRead { pins7 with tsContact := false } 9 = 0x0000#16 := by decide

/-- The table of T7. -/
theorem test_kbData : (List.range 16).map (fun r => (kbData .v13 13 pins7 (BitVec.ofNat 4 r)).toNat) =
    [0, 1, 0, 0, 0, 0, 0, 0, 0, 0x8004, 0, 0, 0, 0x8005, 0, 0] := by decide +kernel

theorem test_kbRd_completes : (nextOf (exec .kbRd (withController { controller0 with kbMatrix := 0x09 }))).isSome = true := rfl

/-! Reset (V11). -/

theorem test_evDeviceReset : (nextOf (exec .evDeviceReset (withBridge { bridge0 with
      registerSelect := 0x1234, writeData := 0x5678, writePending := true, regCell := some ⟨0x9999, 7, 3⟩, romBank := 2 }))).map
      (fun t => (t.bridge.registerSelect, t.bridge.writePending, t.bridge.regCell, t.bridge.romBank, t.bridge.coreReset)) =
    some (0x0000#16, false, none, 0x0000#16, true) := by decide

theorem test_evResetRelease : (nextOf (exec .evResetRelease (withBridge
      { bridge0 with coreReset := true, resetTimer := some 0 }))).map (fun t => (t.bridge.coreReset, t.bridge.resetTimer)) =
    some (false, none) := by decide +kernel

/-! The fetch (R80, R98, P5). -/

/-- A scan tick due at 1/2, and a bus operation stated at 1/2. -/
def tickDue : State :=
  { withController { controller0 with kbTimer := .armed .slow (1 / 2) } with pending := [lineAt (1 / 2) 0x230000#24] }

/-- A frame clock due at instant 1. -/
def framing : State := { bench with frameClock := .running 1 }

/-- The arcade host's bus used at instant 0. -/
def hostUsed : State := { bench with lines := bench.lines.take .hostA 0 }

theorem test_timer_fires_before_the_bus : (nextOf (step tickDue)).map (fun t => (t.outputs, t.pending.length, decide (t.now = 1 / 2))) =
    some ([.keyIntPulse], 1, true) := by decide +kernel

/-- An explicit event word at its due instant is that event. -/
theorem test_explicit_event : (nextOf (step { tickDue with pending := [lineAt (1 / 2) 0x340000#24] })).map
    (fun t => (t.outputs, t.pending)) = some ([.keyIntPulse], []) := by decide +kernel

theorem test_event_at_a_wrong_instant : nextOf (step { tickDue with pending := [lineAt (1 / 4) 0x340000#24] }) = none := by
  decide +kernel

/-- A frame of a running clock at an instant: before every bus operation, a sample write among them (R80, D1). -/
theorem test_frame_at_a_tie :
    ownFirst .hStatusRd 1 framing = some ⟨1, .evFrame⟩ ∧ ownFirst (.cLeftWr 0) 1 framing = some ⟨1, .evFrame⟩ ∧
    nextOf (step { framing with pending := [lineAt (1 / 2) 0x330000#24] }) = none := by decide +kernel

/-- R80: a second operation of one bus at one instant is no trace of the hardware. -/
theorem test_bus_in_use : faultOf (step { hostUsed with pending := [lineAt 0 0x000000#24] }) = some .busInUse := by decide +kernel

/-- The first word after reset: a host read runs and finds READY. -/
theorem test_first_word_after_reset : (nextOf (step (State.reset.withFetchWord 24 0x000000))).map State.reply =
    some (some (.word 0x0001#16)) := by decide +kernel

/-! Witnesses: for each obligation with hypotheses, concrete states and operands that meet them. -/

/-- On request, with no line taken, the frame clock and the trace are in order at any instant from 0 on. -/
theorem bench_clocks : (∀ next, bench.frameClock = .running next → bench.now ≤ next) ∧ LinesInv bench.lines bench.now :=
  ⟨fun _ h => (by cases h), le_refl _, fun a u h => (by cases a <;> cases h)⟩

theorem bench_inv : bench.Inv := by
  refine ⟨le_refl _, dueLater_of ?_ ?_ ?_ ?_ ?_, ⟨?_, ?_, ?_, rfl, ?_⟩, ⟨?_, ?_, ?_⟩, bench_clocks.1, bench_clocks.2⟩ <;>
    simp [bench, bridge0, controller0, bankOf, scanOff]

/-- A register-select write and after it a data write in flight, both scheduled at instant 0. -/
def inFlight : State := withBridge
  { bridge0 with
    regCell := some ⟨0x0012, Config.syncDelay, 0⟩
    dataCell := some ⟨0xBEEF, Config.syncDelay, 1⟩
    nextSeq := 2 }

theorem inFlight_inv : inFlight.Inv := by
  have h := syncDelay_pos
  refine ⟨le_refl _, dueLater_of ?_ ?_ ?_ ?_ ?_, ⟨?_, ?_, ?_, rfl, ?_⟩, ⟨?_, ?_, ?_⟩, bench_clocks.1, bench_clocks.2⟩ <;>
    simp [inFlight, withBridge, bench, bridge0, controller0, bankOf, scanOff, CellsInOrder, h]
  · exact ⟨h.le, by simp, by simp⟩
  · exact ⟨h.le, by simp, by simp⟩

/-- The scan timer armed at 32 Hz at instant 0. -/
def scanning : State := withController { controller0 with kbMatrix := 0x40, kbTimer := .armed .slow (1 / 32) }

theorem scanning_inv : scanning.Inv := by
  refine ⟨le_refl _, dueLater_of ?_ ?_ ?_ ?_ ?_, ⟨?_, ?_, ?_, rfl, ?_⟩, ⟨?_, ?_, ?_⟩, bench_clocks.1, bench_clocks.2⟩ <;>
    simp [scanning, withController, bench, bridge0, controller0, bankOf, scanOff]

/-- In the hold, released at `RESET_HOLD_TIME`. -/
def holding : State := withBridge { bridge0 with coreReset := true, resetTimer := some Config.resetHoldTime }

theorem holding_inv : holding.Inv := by
  have h := resetHoldTime_pos
  refine ⟨le_refl _, dueLater_of ?_ ?_ ?_ ?_ ?_, ⟨?_, ?_, ?_, rfl, ?_⟩, ⟨?_, ?_, ?_⟩, bench_clocks.1, bench_clocks.2⟩ <;>
    simp [holding, withBridge, bench, bridge0, controller0, bankOf, scanOff, h, h.le]

theorem framing_inv : framing.Inv := by
  refine ⟨le_refl _, dueLater_of ?_ ?_ ?_ ?_ ?_, ⟨?_, ?_, ?_, rfl, ?_⟩, ⟨?_, ?_, ?_⟩, ?_, bench_clocks.2⟩ <;>
    simp [framing, bench, bridge0, controller0, bankOf, scanOff]

/-- A status read at the present instant. -/
def thenStatus (s : State) : State := { s with pending := [atOnce 0x000000#24] }

theorem thenStatus_inv {s : State} (h : s.Inv) : (thenStatus s).Inv :=
  ⟨h.started, fun e => by have := h.dueLater e; cases e <;> exact this, h.bridge, h.controller, h.frameClock, h.lines⟩

/-- At instant 0, with the host's bus not used, that read is the next step. -/
theorem step_thenStatus {s : State} (h : s.now = 0) (hb : s.lines.hostA = none) : ∃ t, step (thenStatus s) = .next t := by
  have hd : decode 0x000000#24 = .ok .hStatusRd := by decide
  simp [step, fetch, fetchLine, lineInstant, ownFirst, offDue, dueOf, thenStatus, atOnce, hd, h, hb, agentOf, LineClock.lastUse,
    exec, execHStatusRd]

theorem runSteps_thenStatus {s : State} (h : s.now = 0) (hb : s.lines.hostA = none) :
    ∃ t, runSteps 1 (thenStatus s) = .next t := by
  obtain ⟨t, ht⟩ := step_thenStatus h hb
  exact ⟨t, by simp [runSteps, Host.Core.run, core, ht]⟩

theorem thenStatus_noPending (s : State) (p : Instr → Bool) (h : p .hStatusRd = false) : (thenStatus s).noPending p := by
  intro tr htr i hi
  have htr' : tr = atOnce 0x000000#24 := by simpa [thenStatus] using htr
  have hd : decode (atOnce 0x000000#24).word = .ok .hStatusRd := by decide
  rw [htr', hd] at hi
  cases hi
  exact h

theorem witness_DecodedWordIsCanonicalUpToIgnoredBits : decode 0x00ABCD#24 = .ok .hStatusRd := by decide

theorem witness_ReservedOpNumbersAreRefused : ∃ (s : State) (tr : Transaction) (op : Byte),
    s.pending = [tr] ∧ decode tr.word = .error (.reserved op) :=
  ⟨{ bench with pending := [line 0x030000#24] }, line 0x030000#24, 0x03, rfl, by decide⟩

/-- The clauses of StepRunsTheDecodedOperation, in order. -/
theorem witness_StepRuns_line : decode (lineAt 0 0x000000#24).word = .ok .hStatusRd ∧
    lineInstant (lineAt 0 0x000000#24) .hStatusRd bench = 0 ∧ ownFirst .hStatusRd 0 bench = none ∧ bench.now ≤ 0 ∧
    dueOf .hStatusRd bench = none ∧ bench.lines.lastUse .hostA ≠ some 0 := by decide +kernel

/-- A keyboard read before the scan tick is due. -/
theorem witness_StepRuns_notYetDue : lineInstant (lineAt (1 / 4) 0x230000#24) .kbRd tickDue = 1 / 4 ∧ tickDue.now ≤ 1 / 4 ∧
    (∀ e due, dueOf e tickDue = some due → (e = .kbRd ∧ due = 1 / 4) ∨ (e ≠ .kbRd ∧ 1 / 4 < due)) ∧
    tickDue.lines.lastUse .hostB ≠ some (1 / 4) := by
  refine ⟨by decide +kernel, by decide +kernel, fun e due h => .inr ?_, by decide +kernel⟩
  cases e <;> simp [dueOf, tickDue, withController, bench, bridge0, controller0, kbDue, frameDue] at h
  subst h
  exact ⟨by decide, by norm_num⟩

theorem witness_StepRuns_timerFirst : tickDue.pending = [lineAt (1 / 2) 0x230000#24] ∧
    decode (lineAt (1 / 2) 0x230000#24).word = .ok .kbRd ∧
    lineInstant (lineAt (1 / 2) 0x230000#24) .kbRd tickDue = 1 / 2 ∧
    ownFirst .kbRd (1 / 2) tickDue = some ⟨1 / 2, .evKbTick⟩ := by decide +kernel

theorem witness_StepRuns_alone : scanning.pending = [] ∧ nextDue scanning = some ⟨1 / 32, .evKbTick⟩ := ⟨rfl, rfl⟩

theorem witness_StepRuns_quiet : bench.pending = [] ∧ nextDue bench = none := ⟨rfl, rfl⟩

theorem witness_StepRuns_past : lineInstant (lineAt (-1) 0x000000#24) .hStatusRd bench = -1 ∧
    ownFirst .hStatusRd (-1) bench = none ∧ (-1 : Time) < bench.now := by decide +kernel

theorem witness_StepRuns_offDue : lineInstant (lineAt (1 / 4) 0x340000#24) .evKbTick tickDue = 1 / 4 ∧
    ownFirst .evKbTick (1 / 4) tickDue = none ∧ tickDue.now ≤ 1 / 4 ∧ dueOf .evKbTick tickDue = some (1 / 2) := by
  decide +kernel

theorem witness_StepRuns_busInUse : lineInstant (lineAt 0 0x000000#24) .hStatusRd hostUsed = 0 ∧
    ownFirst .hStatusRd 0 hostUsed = none ∧ hostUsed.now ≤ 0 ∧ dueOf .hStatusRd hostUsed = none ∧
    hostUsed.lines.lastUse .hostA = some 0 := by decide +kernel

theorem witness_StepRuns_loaded : decodeTableWord 24 0x000000 = some .hStatusRd ∧ dueOf .hStatusRd bench = none ∧
    (∀ e due, dueOf e bench = some due → bench.now < due) ∧ bench.lines.lastUse .hostA ≠ some bench.now ∧
    decodeTableWord 24 0x330000 = some .evFrame := ⟨by decide, rfl, bench_inv.dueLater, by simp [bench, LineClock.lastUse], by decide⟩

theorem witness_DueTimersFireBeforeABusOperation : tickDue.pending = [lineAt (1 / 2) 0x230000#24] ∧
    decode (lineAt (1 / 2) 0x230000#24).word = .ok .kbRd ∧
    lineInstant (lineAt (1 / 2) 0x230000#24) .kbRd tickDue = 1 / 2 ∧
    tieRank .kbRd = 2 ∧ dueOf .evKbTick tickDue = some (1 / 2) ∧ (0 : Time) < 1 / 2 ∧ (1 / 2 : Time) ≤ 1 / 2 := by decide +kernel

/-- Its last clauses: both cells due at the instant of a status read, the data cell scheduled first. -/
theorem witness_DueTimers_cells : (nextOf (step (withBridge { bridge0 with
      regCell := some ⟨1, 1, 1⟩, dataCell := some ⟨2, 1, 0⟩ } |> fun s => { s with pending := [lineAt 1 0x000000#24] }))).map
      (fun t => (t.bridge.writeData, t.bridge.registerSelect, t.pending.length)) = some (2, 0, 1) := by decide +kernel

theorem witness_OneBusCarriesOneOperation : agentOf .hStatusRd = .hostA ∧
    (nextOf (step { bench with pending := [lineAt 0 0x000000#24] })).map
      (fun t => (t.pending, t.lines.hostA)) = some ([], some 0) := by decide +kernel

theorem witness_ALineWithoutInstantFindsOne : ({ bench with pending := [line 0x000000#24] } : State).Inv ∧
    (line 0x000000#24).when = .later none 0 ∧ decode (line 0x000000#24).word = .ok .hStatusRd ∧
    (atOnce 0x330000#24).when = .atOnce ∧ decode (atOnce 0x330000#24).word = .ok .evFrame :=
  ⟨⟨bench_inv.started, fun e => by have := bench_inv.dueLater e; cases e <;> exact this, bench_inv.bridge, bench_inv.controller,
    bench_inv.frameClock, bench_inv.lines⟩, rfl, by decide, rfl, by decide⟩

theorem witness_ARunningFrameClockSamplesEveryPeriod : framing.Inv ∧ framing.frameClock = .running 1 ∧
    ∃ t, runSteps 1 framing = .next t ∧ t.frames = framing.frames + 1 := ⟨framing_inv, rfl, _, rfl, rfl⟩

/-- For StepKeepsTheInvariant and TimeNeverDecreases. -/
theorem witness_StepKeepsTheInvariant : (thenStatus inFlight).Inv ∧ ∃ t, step (thenStatus inFlight) = .next t :=
  ⟨thenStatus_inv inFlight_inv, step_thenStatus rfl rfl⟩

theorem witness_OperationsKeepSelectionAndScanOff : (∃ t, exec (.kbmWr 0x80) bench = .next t) ∧
    (nextOf (exec (.kbmWr 0x80) bench)).map (fun t => t.controller.kbMatrix.getLsbD 7) = some true := ⟨⟨_, rfl⟩, by decide⟩

/-- For every statement whose only hypothesis is `exec i s = .next t`, and for those of a released core. -/
theorem witness_exec_completes : (∃ t, exec .cPendRd bench = .next t) ∧ bench.bridge.coreReset = false := ⟨⟨_, rfl⟩, rfl⟩

/-- For BridgeFieldsHaveOnlyTheirWriters: each field does change. -/
theorem witness_BridgeFields_deliveries :
    (nextOf (exec .evRegSync bothDue)).map (fun t => decide (t.bridge.registerSelect ≠ bothDue.bridge.registerSelect ∧
      t.bridge.regCell ≠ bothDue.bridge.regCell)) = some true ∧
    (nextOf (exec .evDataSync (withBridge { bridge0 with dataCell := some ⟨1, 0, 0⟩ }))).map
      (fun t => decide (t.bridge.writeData ≠ 0 ∧ t.bridge.dataCell = none)) = some true ∧
    (nextOf (exec .evResetRelease (withBridge { bridge0 with coreReset := true, resetTimer := some 0 }))).map
      (fun t => (t.bridge.coreReset, t.bridge.resetTimer)) = some (false, none) := by decide +kernel

theorem witness_BridgeFields_writes :
    (nextOf (exec (.cRomaddrWr 1) bench)).map (·.bridge.romAddress) = some 1 ∧
    (nextOf (exec (.cRombankWr 1) bench)).map (·.bridge.romBank) = some 1 ∧
    (nextOf (exec (.cLeftWr 1) bench)).map (·.bridge.leftData) = some 1 ∧
    (nextOf (exec (.cRightWr 1) bench)).map (·.bridge.rightData) = some 1 := by decide

/-- For ControllerFieldsHaveOnlyTheirWriters; the third is a selection that was out of step with the latches. -/
theorem witness_ControllerFields :
    (nextOf (exec (.kbmWr 0x40) bench)).map (fun t => (t.controller.kbMatrix, decide (t.controller.kbTimer ≠ .disarmed))) =
      some (0x40, true) ∧
    (nextOf (exec (.gaWr0 1) bench)).map (·.controller.gateArray0) = some 1 ∧
    (nextOf (exec (.gaWr0 0) (withController { controller0 with bankSel := .card1 }))).map (·.controller.bankSel) =
      some .internal ∧
    (nextOf (exec (.gaWr1 1) bench)).map (·.controller.gateArray1) = some 1 := by decide +kernel

theorem witness_OnlyTheDataReadHasASideEffect : (∃ t, exec .kbRd bench = .next t) ∧ (∃ t, exec .cDataRd bench = .next t) ∧
    (∃ t, exec (.bankRd 0) bench = .next t) := ⟨⟨_, rfl⟩, ⟨_, rfl⟩, ⟨_, rfl⟩⟩

theorem witness_TheTwoBlocksShareNoState : onBridge .cRegRd = true ∧ onController .kbRd = true ∧
    (∃ t, exec .cRegRd bench = .next t) ∧ (∃ t, exec .kbRd bench = .next t) := ⟨rfl, rfl, ⟨_, rfl⟩, ⟨_, rfl⟩⟩

theorem witness_HostSeesOnlyTheStatusBit : agentOf .hStatusRd = .hostA ∧
    (withBridge { bridge0 with writeData := 7 }).bridge.writePending = bench.bridge.writePending := ⟨rfl, rfl⟩

theorem witness_CoreOperationsStopWhileHeld : agentOf .cRomRd = .core ∧ holding.bridge.coreReset = true := ⟨rfl, rfl⟩

/-- For RegSyncDeliversTheCell: its clauses in order. -/
theorem witness_RegSync : bothDue.bridge.regCell = some ⟨0x0012, 0, 0⟩ ∧ (0 : Time) = bothDue.now ∧
    bothDue.bridge.dataCell = some ⟨0xBEEF, 0, 1⟩ ∧ bench.bridge.regCell = none ∧
    (withBridge { bridge0 with regCell := some ⟨0, 1, 0⟩ }).bridge.regCell = some ⟨0, 1, 0⟩ ∧ (1 : Time) ≠ bench.now ∧
    (withBridge { bridge0 with regCell := some ⟨0, 0, 1⟩, dataCell := some ⟨0, 0, 0⟩ }).bridge.dataCell = some ⟨0, 0, 0⟩ := by
  decide +kernel

/-- For DataSyncDeliversTheCellAndRaisesTheFlag and OverrunLosesTheUnreadValue: the data cell alone due, the flag set. -/
def dataDue : State := withBridge { bridge0 with dataCell := some ⟨0x2222, 0, 1⟩, writeData := 0x1111, writePending := true }

theorem witness_DataSync : dataDue.bridge.writePending = true ∧ dataDue.bridge.dataCell = some ⟨0x2222, 0, 1⟩ ∧
    (0 : Time) = dataDue.now ∧ dataDue.bridge.regCell = none ∧ bench.bridge.dataCell = none ∧
    bothDue.bridge.dataCell = some ⟨0xBEEF, 0, 1⟩ ∧ bothDue.bridge.regCell = some ⟨0x0012, 0, 0⟩ ∧ (1 : Time) ≠ bench.now := by
  decide +kernel

theorem witness_DataPathFollowsItsTable : bench.bridge.dataPath = .idle ∧ dataDue.bridge.dataPath = .pendingScheduled ∧
    (∃ t, exec (.hDataWr 1) bench = .next t) ∧ (∃ t, exec .cDataRd bench = .next t) ∧ (∃ t, exec .evDeviceReset bench = .next t) ∧
    (nextOf (exec .evDataSync dataDue)).isSome = true ∧ ∃ t, exec .kbRd bench = .next t :=
  ⟨rfl, rfl, ⟨_, rfl⟩, ⟨_, rfl⟩, ⟨_, rfl⟩, by decide +kernel, ⟨_, rfl⟩⟩

/-- For the three statements on runs with writes in flight, and for AFullRegisterCellStaysFiresOrIsSuperseded. -/
theorem witness_writes_in_flight : (thenStatus inFlight).Inv ∧
    (thenStatus inFlight).bridge.regCell = some ⟨0x0012, Config.syncDelay, 0⟩ ∧
    (thenStatus inFlight).bridge.dataCell = some ⟨0xBEEF, Config.syncDelay, 1⟩ ∧
    (thenStatus inFlight).noPending disturbsRegCell ∧ (thenStatus inFlight).noPending disturbsDataCell ∧
    (∃ t, runSteps 1 (thenStatus inFlight) = .next t) ∧ ∃ t, step (thenStatus inFlight) = .next t :=
  ⟨thenStatus_inv inFlight_inv, rfl, rfl, thenStatus_noPending _ _ rfl, thenStatus_noPending _ _ rfl,
    runSteps_thenStatus rfl rfl, step_thenStatus rfl rfl⟩

/-- In such a run both values are delivered: two steps of the machine left to itself, with nothing pending. -/
theorem witness_RegisterNumberIsDeliveredBeforeItsData : ∃ t, runSteps 2 inFlight = .next t ∧ t.bridge.dataCell = none ∧
    t.bridge.registerSelect = 0x0012 ∧ t.bridge.writeData = 0xBEEF := by
  simp [runSteps, Host.Core.run, core, step, fetch, inFlight, withBridge, bench, bridge0, controller0, nextDue, cellDue, firstDue, frameDue,
    resetDue, kbDue, exec, execEvRegSync, execEvDataSync, cellFires, State.advanceTo, State.putBridge, State.silent,
    Bridge.deliverReg, Bridge.deliverData, Bridge.setPending]

theorem witness_NextWindowReadSeesTheNewBank : (0x0000#16).toNat < Config.bankWindowSize := by simpa using bankWindowSize_pos

theorem witness_ScanTimerReactsToEdgesOnly : (0x3F#8).getLsbD 7 = bench.controller.kbMatrix.getLsbD 7 ∧
    (0x3F#8).getLsbD 6 = bench.controller.kbMatrix.getLsbD 6 := by decide

theorem witness_ScanOffThenSlowArmsAt32Hz : State.reset.controller = State.reset.controller := rfl

/-- For ScanTickPulsesAndRearms: its clauses in order. -/
theorem witness_ScanTick : (withController { controller0 with kbTimer := .armed .active 0 }).controller.kbTimer =
      .armed .active (withController { controller0 with kbTimer := .armed .active 0 }).now ∧
    bench.controller.kbTimer = .disarmed ∧ scanning.controller.kbTimer = .armed .slow (1 / 32) ∧ (1 / 32 : Time) ≠ scanning.now := by
  decide +kernel

/-- For DigitizerAnswersOnlyItsLine: the ends of the X and Y ranges and the lines where the clauses meet. -/
theorem witness_DigitizerAnswersOnlyItsLine : (9 : BitVec 4).toNat = 7 + pins7.tsX.toNat / 64 ∧ pins7.tsContact = true ∧
    (7 : BitVec 4).toNat = 7 + (0x3F#8).toNat / 64 ∧ (10 : BitVec 4).toNat = 7 + (0xC0#8).toNat / 64 ∧
    (6 : BitVec 4).toNat < 7 ∧ 10 < (11 : BitVec 4).toNat := by decide

/-- For KeyboardReadReturnsRowOrAllRows and SentinelReadIsTheOrOfTheRowReads: the sentinel selected, and row 0 selected. -/
theorem witness_sentinel_selected : rowSel (sentinelHere.setWidth 8) = sentinelHere ∧
    (sentinelHere.setWidth 8).toNat % 16 = sentinelHere.toNat ∧ (0x00#8).toNat % 16 ≠ sentinelHere.toNat := by
  have h := nRows_le_sentinel Config.kbSentinelV12 Config.kbVariant
  have h12 : 12 ≤ nRows Config.kbVariant := by cases Config.kbVariant <;> decide
  have hpos : 12 ≤ sentinelHere.toNat := h12.trans h
  have hlt := sentinelHere.isLt
  have hb : (sentinelHere.setWidth 8).toNat = sentinelHere.toNat := by rw [BitVec.toNat_setWidth]; omega
  have h0 : (0x00#8).toNat = 0 := rfl
  refine ⟨BitVec.eq_of_toNat_eq ?_, ?_, ?_⟩
  · simp only [rowSel, BitVec.extractLsb'_toNat, hb]; omega
  · omega
  · omega

theorem witness_KeyboardRead_rows : (12 : BitVec 4).toNat < nRows .v13 ∧ nRows .v13 ≤ (13 : BitVec 4).toNat ∧
    (11 : BitVec 4).toNat < nRows .v12 ∧ nRows .v12 ≤ (12 : BitVec 4).toNat := by decide

theorem witness_ADisarmedTimerNeverPulses : (thenStatus bench).controller.kbTimer = .disarmed ∧
    (thenStatus bench).noPending disturbsScan ∧ ∃ t, runSteps 1 (thenStatus bench) = .next t :=
  ⟨rfl, thenStatus_noPending _ _ rfl, runSteps_thenStatus rfl rfl⟩

theorem witness_AnUndisturbedTimerPulsesEveryPeriod : scanning.Inv ∧ scanning.controller.kbTimer = .armed .slow (1 / 32) ∧
    scanning.noPending disturbsScan ∧ (nextOf (runSteps 2 scanning)).map State.pulses = some 2 :=
  ⟨scanning_inv, rfl, by simp [State.noPending, scanning, withController, bench], by decide +kernel⟩

theorem witness_DeviceResetRestoresBothBlocks : bench.now = 0 := rfl

theorem witness_ResetReleaseFreesTheCore :
    (withBridge { bridge0 with coreReset := true, resetTimer := some 0 }).bridge.resetTimer = some bench.now ∧
    bench.bridge.resetTimer ≠ some bench.now := ⟨rfl, by simp [bench, bridge0]⟩

theorem witness_TheCoreIsHeldUntilTheReleaseIsDue : (thenStatus holding).Inv ∧
    (thenStatus holding).bridge.resetTimer = some Config.resetHoldTime ∧
    (thenStatus holding).noPending (fun i => decide (i = .evDeviceReset)) ∧ ∃ t, runSteps 1 (thenStatus holding) = .next t :=
  ⟨thenStatus_inv holding_inv, rfl, thenStatus_noPending _ _ rfl, runSteps_thenStatus rfl rfl⟩

end Sys2Proof.Tests
end

/-! PROOFS. The state family (spec/10_state.md): the pending flag (R25), the overrun (R26) and the edges of `kb_matrix` (R39). -/

namespace Sys2Proof.Machine

/-! The events of the timers complete once they are enabled: the converses of the event cases of `exec_next_cases`. -/

theorem exec_evRegSync_of_fires {s : State} {c : Cell} (hc : s.bridge.regCell = some c)
    (hf : cellFires c s.bridge.dataCell s.now = true) :
    exec .evRegSync s = .next (s.putBridge (s.bridge.deliverReg c.value)).silent := by
  simp [exec, execEvRegSync, hc, hf]

theorem exec_evDataSync_of_fires {s : State} {c : Cell} (hc : s.bridge.dataCell = some c)
    (hf : cellFires c s.bridge.regCell s.now = true) :
    exec .evDataSync s = .next (s.putBridge (s.bridge.deliverData c.value)).silent := by
  simp [exec, execEvDataSync, hc, hf]

theorem exec_evResetRelease_of_due {s : State} (hd : s.bridge.resetTimer = some s.now) :
    exec .evResetRelease s = .next (s.putBridge { s.bridge with coreReset := false, resetTimer := none }).silent := by
  simp [exec, execEvResetRelease, hd]

theorem exec_evKbTick_of_due {s : State} {rate : ScanRate} (hk : s.controller.kbTimer = .armed rate s.now) :
    exec .evKbTick s = .next ((s.putController { s.controller with
      kbTimer := .armed rate (s.now + period rate) }).emit .keyIntPulse).silent := by
  simp [exec, execEvKbTick, hk]

theorem exec_bankRd_of_inside {s : State} {off : Half} (hw : off.toNat < Config.bankWindowSize) :
    exec (.bankRd off) s = .next (s.answer (.byte (memRead s.controller.bankSel (.bank off)))) :=
  if_neg (Nat.not_le_of_lt hw)

/-! The pending flag. -/

/-- The flag after an operation that finds it at `flag` (R25). -/
def pendingAfter (i : Instr) (flag : Bool) : Bool :=
  match i with
  | .evDataSync => true
  | .cDataRd => false
  | .evDeviceReset => false
  | _ => flag

/-- The same state with another value of the flag. -/
def State.withPending (s : State) (flag : Bool) : State :=
  { s with bridge := { s.bridge with writePending := flag } }

/-- Every operation leaves the flag as R25 says. -/
theorem exec_writePending {i : Instr} {s t : State} (h : exec i s = .next t) :
    t.bridge.writePending = pendingAfter i s.bridge.writePending := by
  apply exec_next_cases h
  case cDataRd => intro; simp [pendingAfter]
  all_goals intros; rfl

/-- Status bit 0 is the flag inverted (D4). -/
theorem Bridge.status_getLsbD_zero (b : Bridge) : b.status.getLsbD 0 = !b.writePending := by
  unfold Bridge.status
  cases b.writePending <;> rfl

/-- But for its three readers, an operation does the same whatever the flag is: the flag of the next state follows R25 and no
other field of it depends on the flag. -/
theorem exec_withPending {i : Instr} {s t : State} (flag : Bool) (h : exec i s = .next t) :
    i ≠ .hStatusRd → i ≠ .cPendRd → i ≠ .cDataRd →
    exec i (s.withPending flag) = .next (t.withPending (pendingAfter i flag)) := by
  apply exec_next_cases h
  case hStatusRd => intro hne; exact absurd rfl hne
  case cPendRd => intro _ _ hne; exact absurd rfl hne
  case cDataRd => intro _ _ _ hne; exact absurd rfl hne
  case cRegRd | cRomRd =>
    intro released _ _ _
    simp only [exec, execCRegRd, execCRomRd, coreAccess_released (s := s.withPending flag) released]
    rfl
  case cRomaddrWr | cRombankWr | cLeftWr | cRightWr =>
    intro v released _ _ _
    simp only [exec, execCRomaddrWr, execCRombankWr, execCLeftWr, execCRightWr, coreWrite,
      coreAccess_released (s := s.withPending flag) released]
    rfl
  case bankRd => intro off inside _ _ _; exact exec_bankRd_of_inside inside
  case evRegSync => intro c full fires _ _ _; exact exec_evRegSync_of_fires full fires
  case evDataSync => intro c full fires _ _ _; exact exec_evDataSync_of_fires full fires
  case evResetRelease => intro due _ _ _; exact exec_evResetRelease_of_due due
  case evKbTick => intro rate due _ _ _; exact exec_evKbTick_of_due due
  all_goals intros; rfl

/-- Settles O12: each operation's effect on the flag (`exec_writePending`), the flag's three views, and that no other operation
depends on it (`exec_withPending`). -/
theorem pendingFlagSetAndClearedOnlyByItsOperations : Obligations.PendingFlagSetAndClearedOnlyByItsOperations := by
  refine ⟨fun i s t h => exec_writePending h, fun s => ⟨s.bridge.status, rfl, s.bridge.status_getLsbD_zero⟩,
    fun s released => coreAccess_released (act := fun s => s.answer (.bit s.bridge.pendingLine)) released, fun b => rfl, rfl, ?_⟩
  intro i s t flag hStatus hPend hData h
  have hx := exec_withPending flag h hStatus hPend hData
  cases i with
  | cDataRd => exact absurd rfl hData
  | _ => exact hx

/-- Settles O25: a delivery overwrites the data and the flag, so the next state is the same whatever the two were. -/
theorem overrunLosesTheUnreadValue : Obligations.OverrunLosesTheUnreadValue := by
  intro s c _ full due first
  have fires : cellFires c s.bridge.regCell s.now = true := cellFires_iff.mpr ⟨due, first⟩
  exact ⟨_, exec_evDataSync_of_fires full fires, rfl, rfl, fun _ _ => exec_evDataSync_of_fires full fires⟩

/-! The scan timer. -/

/-- With neither bit 7 nor bit 6 changed, none of the three steps of R201 sees an edge. -/
theorem kbTimerAfterWrite_of_no_edge {old new : Byte} {now : Time} {t : KbTimer} (h7 : scanOff new = scanOff old)
    (h6 : slowBit new = slowBit old) : kbTimerAfterWrite old new now t = t := by
  have step1 : kbTimerStep1 old new t = t := by simp [kbTimerStep1, h7]
  have step2 : kbTimerStep2 old new now t = t := by simp [kbTimerStep2, h7]
  have step3 : kbTimerStep3 old new now t = t := by simp [kbTimerStep3, h6]
  rw [kbTimerAfterWrite, step1, step2, step3]

/-- Settles O47: without an edge the scan timer is kept, and the write stores its byte. -/
theorem scanTimerReactsToEdgesOnly : Obligations.ScanTimerReactsToEdgesOnly := by
  intro s v h7 h6
  simp only [exec, execKbmWr, kbTimerAfterWrite_of_no_edge h7 h6]
  rfl

end Sys2Proof.Machine

/-! PROOFS. The memory family (spec/20_memory.md): the side effects of the reads (R74). -/

namespace Sys2Proof.Machine

@[simp] theorem Bridge.clearPending_writeData (b : Bridge) : b.clearPending.writeData = b.writeData := rfl

@[simp] theorem Bridge.clearPending_coreReset (b : Bridge) : b.clearPending.coreReset = b.coreReset := rfl

@[simp] theorem Bridge.clearPending_clearPending (b : Bridge) : b.clearPending.clearPending = b.clearPending := rfl

/-- When `C_DATA_RD` completes, and its next state (R152). -/
theorem exec_cDataRd_next {s t : State} : exec .cDataRd s = .next t ↔ s.bridge.coreReset = false ∧
    t = ((s.putBridge s.bridge.clearPending).answer (.word s.bridge.writeData)).emitReady .onConsume s.bridge.writePending := by
  simp only [exec, execCDataRd, coreAccess_next]

/-- Every read but `C_DATA_RD` does nothing but answer (R74). -/
theorem exec_read_only_answers {i : Instr} {s t : State} (h : exec i s = .next t) :
    (i = .hStatusRd ∨ i = .cRegRd ∨ i = .cPendRd ∨ i = .cRomRd ∨ i = .kbRd ∨ ∃ off, i = .bankRd off) →
    ∃ r, t = s.answer r := by
  apply exec_next_cases h
  case hStatusRd | cRegRd | cPendRd | cRomRd | kbRd | bankRd => intros; exact ⟨_, rfl⟩
  all_goals simp

/-- A `C_DATA_RD` returns the data latch and changes the Bridge by clearing the flag only. -/
theorem exec_cDataRd_effect {s t : State} (h : exec .cDataRd s = .next t) :
    t.bridge = s.bridge.clearPending ∧ t.controller = s.controller ∧ t.now = s.now ∧
      t.reply = some (.word s.bridge.writeData) := by
  obtain ⟨-, rfl⟩ := exec_cDataRd_next.mp h
  simp

/-- Settles O15: the other reads only answer (`exec_read_only_answers`); after a `C_DATA_RD` the core is still released, so a
second one completes, and clearing the flag keeps the data latch and is idempotent. -/
theorem onlyTheDataReadHasASideEffect : Obligations.OnlyTheDataReadHasASideEffect := by
  constructor
  · intro i s t hread h
    obtain ⟨r, rfl⟩ := exec_read_only_answers h hread
    exact ⟨rfl, Option.some_ne_none r⟩
  · intro s t h
    obtain ⟨released, -⟩ := exec_cDataRd_next.mp h
    obtain ⟨hb, hc, hn, hr⟩ := exec_cDataRd_effect h
    obtain ⟨u, again⟩ : ∃ u, exec .cDataRd t = .next u := ⟨_, exec_cDataRd_next.mpr ⟨by simpa [hb] using released, rfl⟩⟩
    obtain ⟨hb', -, -, hr'⟩ := exec_cDataRd_effect again
    refine ⟨hb, hc, hn, u, again, ?_, ?_⟩
    · simp [hr', hr, hb]
    · simp [hb', hb]

end Sys2Proof.Machine

/-! PROOFS. The host-port family (spec/40_bridge_host_ports.md): the delivery of the register cell (R124). -/

namespace Sys2Proof.Machine

/-! When `EV_REG_SYNC` is not enabled: with `exec_evRegSync_of_fires`, every case of the operation. -/

theorem exec_evRegSync_of_empty {s : State} (empty : s.bridge.regCell = none) :
    exec .evRegSync s = .fault .eventNotEnabled := by
  simp [exec, execEvRegSync, empty]

theorem exec_evRegSync_of_not_fires {s : State} {c : Cell} (full : s.bridge.regCell = some c)
    (waits : ¬ cellFires c s.bridge.dataCell s.now = true) : exec .evRegSync s = .fault .eventNotEnabled := by
  simp [exec, execEvRegSync, full, waits]

/-- Settles O23: `cellFires_iff` says when a full cell fires, and each clause that withholds the delivery denies one of its two
conditions. -/
theorem regSyncDeliversTheCell : Obligations.RegSyncDeliversTheCell := by
  refine ⟨?decodes, ?delivers, fun s empty => exec_evRegSync_of_empty empty, ?notDue, ?behindData⟩
  case decodes => intro d; simp [decode]
  case delivers => intro s c full due first; exact exec_evRegSync_of_fires full (cellFires_iff.mpr ⟨due, first⟩)
  case notDue =>
    intro s c full notDue
    refine exec_evRegSync_of_not_fires full fun fires => ?_
    obtain ⟨due, -⟩ := cellFires_iff.mp fires
    exact notDue due
  case behindData =>
    intro s c o full dataFull dataDue lower
    refine exec_evRegSync_of_not_fires full fun fires => ?_
    obtain ⟨-, first⟩ := cellFires_iff.mp fires
    exact Nat.not_le_of_lt lower (first o dataFull dataDue)

end Sys2Proof.Machine

/-! PROOFS. The core-port family (spec/41_bridge_core_ports.md): the reads of the register latch (R151) and of the flag
(R153). -/

namespace Sys2Proof.Machine

/-- A released core's `C_REG_RD` does nothing but answer the latch, whatever the register cell holds. -/
theorem exec_cRegRd_of_released {s : State} (released : s.bridge.coreReset = false) :
    exec .cRegRd s = .next (s.answer (.word s.bridge.registerSelect)) := by
  simp only [exec, execCRegRd, coreAccess_released released]

/-- Settles O31: the word's op field selects the row whatever its data is, and the latch is the whole answer
(`exec_cRegRd_of_released`). -/
theorem coreRegisterReadReturnsTheLatch : Obligations.CoreRegisterReadReturnsTheLatch := by
  refine ⟨?decodes, ?answers⟩
  case decodes => intro d; simp [decode]
  case answers => intro s released; exact exec_cRegRd_of_released released

/-- Settles O33: the core's and the host's view of the flag are two clauses of O12, here in one state. -/
theorem corePendingReadReturnsTheFlag : Obligations.CorePendingReadReturnsTheFlag := by
  obtain ⟨-, hostView, coreView, -⟩ := pendingFlagSetAndClearedOnlyByItsOperations
  refine ⟨?decodes, ?answers⟩
  case decodes => intro d; simp [decode]
  case answers => intro s released; exact ⟨coreView s released, hostView s⟩

end Sys2Proof.Machine

/-! PROOFS. The bank-switch family (spec/43_bank_switch.md): the two gate-array writes (R192, R193). -/

namespace Sys2Proof

/-- A word given by its three bytes is its op number followed by its data, the high byte before the low one. -/
theorem append_bytes_eq (op hi lo : Byte) : (op ++ hi ++ lo : TWord) = op ++ (hi ++ lo : Half) := by
  simpa using BitVec.append_assoc (x₁ := op) (x₂ := hi) (x₃ := lo)

end Sys2Proof

namespace Sys2Proof.Machine

/-! Each gate-array write changes its latch, takes the selection `BankOf` gives for the new latch and the old other one, and
returns nothing. -/

theorem exec_gaWr0 (v : Byte) (s : State) : exec (.gaWr0 v) s = .next (s.putController { s.controller with
    gateArray0 := v
    bankSel := bankOf Config.card1Valid Config.card2Valid v s.controller.gateArray1 }).silent := by
  simp only [exec, execGaWr0, Controller.reselect_eq]

theorem exec_gaWr1 (v : Byte) (s : State) : exec (.gaWr1 v) s = .next (s.putController { s.controller with
    gateArray1 := v
    bankSel := bankOf Config.card1Valid Config.card2Valid s.controller.gateArray0 v }).silent := by
  simp only [exec, execGaWr1, Controller.reselect_eq]

/-- Settles O40: the operand is the word's low byte, and the selection is `BankOf` of the new latch 0 and the latch 1 that
stands (`exec_gaWr0`). -/
theorem gateArrayWrite0SelectsTheBank : Obligations.GateArrayWrite0SelectsTheBank := by
  refine ⟨?decodes, ?selects⟩
  case decodes => intro hi v; simp [append_bytes_eq, decode]
  case selects => intro s v; rw [exec_gaWr0, bankOf]; rfl

/-- Settles O41: the operand is the word's low byte, and the selection is `BankOf` of the latch 0 that stands, which comes
first, and the new latch 1 (`exec_gaWr1`). -/
theorem gateArrayWrite1SelectsTheBank : Obligations.GateArrayWrite1SelectsTheBank := by
  refine ⟨?decodes, ?selects⟩
  case decodes => intro hi v; simp [append_bytes_eq, decode]
  case selects => intro s v; rw [exec_gaWr1, bankOf]; rfl

end Sys2Proof.Machine

/-! PROOFS. The fetch (spec/20_memory.md section 3, spec/30_encoding.md section 4): the operation a step runs, and the state it
runs from. -/

namespace Sys2Proof.Machine

/-- The fetch from `s` chooses operation `i`, to be run from `u`: only the instant, the pins, the trace and the pending lines
move; the operation is the next timer event, or the first pending line with no timer event before it. -/
structure Chooses (s : State) (i : Instr) (u : State) : Prop where
  bridge : u.bridge = s.bridge
  controller : u.controller = s.controller
  frameClock : u.frameClock = s.frameClock
  outputs : u.outputs = s.outputs
  onDue : ∀ due, dueOf i s = some due → due = u.now
  source : (nextDue s = some ⟨u.now, i⟩ ∧ u.lines = s.lines ∧ u.pending = s.pending) ∨
    (s.now ≤ u.now ∧ ownFirst i u.now s = none ∧ u.lines = s.lines.take (agentOf i) u.now ∧
      ∃ tr, s.pending = tr :: u.pending ∧ decode tr.word = .ok i)

theorem step_chooses {s t : State} (h : step s = .next t) : ∃ i u, Chooses s i u ∧ exec i u = .next t := by
  rcases step_next h with ⟨d, hn, hx⟩ | ⟨tr, rest, i, u, hp, hd, -, notPast, ho, onDue, -, hx⟩
  · refine ⟨d.event, s.advanceTo d.due, ⟨rfl, rfl, rfl, rfl, fun due hdue => ?_, .inl ⟨hn, rfl, rfl⟩⟩, hx⟩
    rw [dueOf_nextDue hn] at hdue
    exact (Option.some.inj hdue).symm
  · exact ⟨i, ((s.advanceTo u).takeLine (agentOf i) u).present tr.pins rest,
      ⟨rfl, rfl, rfl, rfl, onDue, .inr ⟨notPast, ho, rfl, tr, hp, hd⟩⟩, hx⟩

end Sys2Proof.Machine

/-! PROOFS. Encoding (spec/30_encoding.md sections 1 to 3 and 7): the round trip, the canonical word, the reserved numbers. -/

namespace Sys2Proof

/-- The bits of the data field a format gives a meaning to (R92). -/
def significantData : Format → Half
  | .w16 | .ro => 0xFFFF#16
  | .w8 => 0x00FF#16
  | .r | .e => 0x0000#16

/-- Every format gives the whole op number a meaning. -/
theorem significantBits_eq_append (f : Format) : significantBits f = 0xFF#8 ++ significantData f := by
  cases f <;> decide

/-- The high byte cleared is the low byte widened. -/
theorem setWidth_w8Operand (data : Half) : (w8Operand data).setWidth 16 = data &&& 0x00FF#16 := by
  apply BitVec.eq_of_toNat_eq
  have mask : data.toNat &&& 255 = data.toNat % 256 := Nat.and_two_pow_sub_one_eq_mod data.toNat 8
  simp only [w8Operand, BitVec.toNat_setWidth, BitVec.extractLsb'_toNat, BitVec.toNat_and, BitVec.toNat_ofNat,
    Nat.shiftRight_zero, Nat.reducePow, Nat.reduceMod, mask]
  omega

/-- All 16 bits are the data itself. -/
theorem and_all_data (data : Half) : data &&& 0xFFFF#16 = data := w16Operand_eq data

/-- Inversion of `decode`: the op number is the operation's own, and its operand is the significant data. -/
theorem decode_ok {w : TWord} {i : Instr} (h : decode w = .ok i) :
    opNumber i = opField w ∧ dataOf i = dataField w &&& significantData (formatOf i) := by
  unfold decode at h
  split at h
  case h_23 => cases h
  all_goals
    next hop =>
    cases h
    exact ⟨hop.symm, by simp [dataOf, formatOf, significantData, setWidth_w8Operand, and_all_data]⟩

/-- Settles O1: `decode` looks at the two fields alone (`opField_encode`, `dataField_encode`), and the operand assembly of
each format inverts `dataOf`. -/
theorem decodeEncodeRoundTrip : Obligations.DecodeEncodeRoundTrip := by
  intro i
  unfold decode
  rw [opField_encode, dataField_encode]
  cases i <;> simp [opNumber, dataOf]

/-- Settles O2: what `decode_ok` says of the two fields, put together again. -/
theorem decodedWordIsCanonicalUpToIgnoredBits : Obligations.DecodedWordIsCanonicalUpToIgnoredBits := by
  intro w i h
  obtain ⟨hop, hdata⟩ := decode_ok h
  calc encode i = opField w ++ (dataField w &&& significantData (formatOf i)) := by rw [encode, hop, hdata]
    _ = (opField w &&& 0xFF#8) ++ (dataField w &&& significantData (formatOf i)) := by
      rw [show (0xFF#8 : Byte) = BitVec.allOnes 8 from rfl, BitVec.and_allOnes]
    _ = (opField w ++ dataField w) &&& (0xFF#8 ++ significantData (formatOf i)) := BitVec.and_append.symm
    _ = w &&& significantBits (formatOf i) := by rw [opField_append_dataField, significantBits_eq_append]

/-- The op numbers of the map (R95). -/
def mappedOps : List Byte :=
  [0x00, 0x01, 0x02, 0x10, 0x11, 0x12, 0x13, 0x14, 0x15, 0x16, 0x17, 0x20, 0x21, 0x22, 0x23, 0x24, 0x30, 0x31, 0x32, 0x33,
    0x34, 0x3F]

/-- A word is rejected exactly when its op number is not in the map. -/
theorem decode_reserved_iff (op : Byte) (data : Half) :
    decode (op ++ data) = .error (.reserved op) ↔ op ∉ mappedOps := by
  unfold decode
  rw [opField_append]
  split
  case h_23 => simp_all [mappedOps]
  all_goals simp [mappedOps]

/-- The numbers outside the map are the five ranges of R103. -/
theorem not_mem_mappedOps_iff (op : Byte) : op ∉ mappedOps ↔
    (0x03 ≤ op.toNat ∧ op.toNat ≤ 0x0F) ∨ (0x18 ≤ op.toNat ∧ op.toNat ≤ 0x1F) ∨ (0x25 ≤ op.toNat ∧ op.toNat ≤ 0x2F) ∨
      (0x35 ≤ op.toNat ∧ op.toNat ≤ 0x3E) ∨ 0x40 ≤ op.toNat := by
  have bound := op.isLt
  simp only [mappedOps, List.mem_cons, List.not_mem_nil, or_false, not_or, ← BitVec.toNat_inj, BitVec.toNat_ofNat,
    BitVec.ofNat_eq_ofNat]
  omega

/-- Settles O3: the map of `decode_reserved_iff` leaves out the five ranges, and the fetch answers a rejected word first. -/
theorem reservedOpNumbersAreRefused : Obligations.ReservedOpNumbersAreRefused := by
  refine ⟨fun op data => (decode_reserved_iff op data).trans (not_mem_mappedOps_iff op), ?refused⟩
  case refused => intro s tr rest op pending rejected; simp only [Machine.step, Machine.fetch, pending, rejected]

/-- Settles O4: the ten words are closed terms. -/
theorem writtenOutWordsDecode : Obligations.WrittenOutWordsDecode := by
  unfold Obligations.WrittenOutWordsDecode
  decide

end Sys2Proof

/-! PROOFS. What an operation does (spec/00_scope.md, spec/10_state.md, spec/30_encoding.md section 4): when it completes, what
it emits, which fields it writes. Each fact is read off the next states of `exec_next_cases`. -/

namespace Sys2Proof.Machine

/-- No operation moves the instant, the pins, the trace or the pending lines: those are the fetch's. -/
theorem exec_keeps_surroundings {i : Instr} {s t : State} (h : exec i s = .next t) :
    t.now = s.now ∧ t.pins = s.pins ∧ t.lines = s.lines ∧ t.pending = s.pending := by
  apply exec_next_cases h
  all_goals intros; simp

theorem exec_now {i : Instr} {s t : State} (h : exec i s = .next t) : t.now = s.now := by
  obtain ⟨now, -⟩ := exec_keeps_surroundings h
  exact now

theorem exec_lines {i : Instr} {s t : State} (h : exec i s = .next t) : t.lines = s.lines := by
  obtain ⟨-, -, lines, -⟩ := exec_keeps_surroundings h
  exact lines

theorem exec_pending {i : Instr} {s t : State} (h : exec i s = .next t) : t.pending = s.pending := by
  obtain ⟨-, -, -, pending⟩ := exec_keeps_surroundings h
  exact pending

/-- The output events of an operation that completes from a state with Bridge `b` (R231, R236). -/
def emitted (i : Instr) (b : Bridge) : List Output :=
  match i with
  | .evKbTick => [.keyIntPulse]
  | .evFrame => [.frame b.leftData.toInt b.rightData.toInt]
  | .cDataRd => if b.writePending = true then [.ready] else []
  | _ => []

theorem exec_outputs {i : Instr} {s t : State} (h : exec i s = .next t) : t.outputs = s.outputs ++ emitted i s.bridge := by
  apply exec_next_cases h
  all_goals intros; simp [emitted, signed16_eq_toInt]

/-- Settles O19: `emitted` is the statement's table. -/
theorem eachOperationEmitsAtMostItsOwnEvent : Obligations.EachOperationEmitsAtMostItsOwnEvent := by
  intro i s t h
  rw [exec_outputs h]
  cases i <;> rfl

/-! Completion. -/

theorem legal_of_exec_next {i : Instr} {s t : State} (h : exec i s = .next t) : Legal i s := by
  apply exec_next_cases h (P := fun i _ => Legal i s)
  case evRegSync =>
    intro c full fires
    obtain ⟨due, first⟩ := cellFires_iff.mp fires
    exact ⟨c, full, due, first⟩
  case evDataSync =>
    intro c full fires
    obtain ⟨due, first⟩ := cellFires_iff.mp fires
    exact ⟨c, full, due, first⟩
  case evKbTick => intro rate due; exact ⟨rate, due⟩
  case cRegRd | cDataRd | cPendRd | cRomRd | evResetRelease => intro legal; exact legal
  case cRomaddrWr | cRombankWr | cLeftWr | cRightWr | bankRd => intro _ legal; exact legal
  all_goals intros; trivial

/-- Every operation of the core is an access under its reset line. -/
theorem exec_eq_coreAccess {i : Instr} (core : agentOf i = .core) : ∃ act, ∀ s, exec i s = coreAccess s act := by
  cases i <;> simp only [agentOf, reduceCtorEq] at core
  all_goals exact ⟨_, fun _ => rfl⟩

theorem exec_core_of_released {i : Instr} {s : State} (core : agentOf i = .core) (released : s.bridge.coreReset = false) :
    ∃ t, exec i s = .next t := by
  obtain ⟨act, access⟩ := exec_eq_coreAccess core
  exact ⟨act s, (access s).trans (coreAccess_released released)⟩

theorem exec_next_of_legal {i : Instr} {s : State} (h : Legal i s) : ∃ t, exec i s = .next t := by
  cases i with
  | cRegRd | cDataRd | cPendRd | cRomRd | cRomaddrWr v | cRombankWr v | cLeftWr v | cRightWr v =>
    exact exec_core_of_released rfl h
  | bankRd off => exact ⟨_, exec_bankRd_of_inside h⟩
  | evRegSync =>
    obtain ⟨c, full, due, first⟩ := h
    exact ⟨_, exec_evRegSync_of_fires full (cellFires_iff.mpr ⟨due, first⟩)⟩
  | evDataSync =>
    obtain ⟨c, full, due, first⟩ := h
    exact ⟨_, exec_evDataSync_of_fires full (cellFires_iff.mpr ⟨due, first⟩)⟩
  | evResetRelease => exact ⟨_, exec_evResetRelease_of_due h⟩
  | evKbTick => obtain ⟨rate, due⟩ := h; exact ⟨_, exec_evKbTick_of_due due⟩
  | _ => exact ⟨_, rfl⟩

/-- Settles O7: the two directions above. -/
theorem completesExactlyWhereLegal : Obligations.CompletesExactlyWhereLegal :=
  fun _ _ => ⟨fun ⟨_, h⟩ => legal_of_exec_next h, exec_next_of_legal⟩

/-- Settles O17: a host operation completes always, and only the status read answers, by the status of the flag. -/
theorem hostSeesOnlyTheStatusBit : Obligations.HostSeesOnlyTheStatusBit := by
  intro i s s' host flag
  cases i <;> simp only [agentOf, reduceCtorEq] at host
  case hStatusRd => exact ⟨_, _, rfl, rfl, by simp [Bridge.status, flag]⟩
  case hRegWr | hDataWr => exact ⟨_, _, rfl, rfl, rfl⟩

/-- Settles O18: each of the eight goes through `coreAccess`. -/
theorem coreOperationsStopWhileHeld : Obligations.CoreOperationsStopWhileHeld := by
  intro i s core held
  obtain ⟨act, access⟩ := exec_eq_coreAccess core
  exact (access s).trans (coreAccess_held held)

/-! Writers. -/

/-- Settles O13: in each next state every field of the Bridge is the old one or the operation is the field's writer. -/
theorem bridgeFieldsHaveOnlyTheirWriters : Obligations.BridgeFieldsHaveOnlyTheirWriters := by
  intro i s t h
  apply exec_next_cases h
  case evDeviceReset => intro notReset; exact absurd rfl notReset
  all_goals
    intros
    simp [Bridge.captureReg, Bridge.captureData, Bridge.deliverReg, Bridge.deliverData, Bridge.setPending,
      Bridge.clearPending]

/-- Settles O14: in each next state every field of the Controller is the old one or the operation is the field's writer. -/
theorem controllerFieldsHaveOnlyTheirWriters : Obligations.ControllerFieldsHaveOnlyTheirWriters := by
  intro i s t h
  apply exec_next_cases h
  case evDeviceReset => intro notReset; exact absurd rfl notReset
  all_goals
    intros
    simp [Controller.reselect_eq]

/-- What R196 and R43 ask of the Controller. -/
def Controller.SelectionAndScanOff (c : Controller) : Prop :=
  c.bankSel = bankOf Config.card1Valid Config.card2Valid c.gateArray0 c.gateArray1 ∧
    (scanOff c.kbMatrix = true → c.kbTimer = .disarmed)

theorem exec_selectionAndScanOff {i : Instr} {s t : State} (ok : s.controller.SelectionAndScanOff)
    (h : exec i s = .next t) : t.controller.SelectionAndScanOff := by
  obtain ⟨sel, off⟩ := ok
  apply exec_next_cases h (P := fun _ t => t.controller.SelectionAndScanOff)
  case gaWr0 | gaWr1 => intro v; exact ⟨rfl, off⟩
  case kbmWr => intro v; exact ⟨sel, fun new => kbTimerAfterWrite_scanOff new off⟩
  case evKbTick =>
    intro rate armed
    exact ⟨sel, fun set => by simp [off set] at armed⟩
  case evDeviceReset =>
    exact ⟨by simp [Controller.deviceReset, bankOf], fun set => by simp [Controller.deviceReset, scanOff] at set⟩
  all_goals
    intros
    simpa using ⟨sel, off⟩

/-- Settles O11: `exec_selectionAndScanOff`, and at reset the latches are 0. -/
theorem operationsKeepSelectionAndScanOff : Obligations.OperationsKeepSelectionAndScanOff := by
  refine ⟨⟨by simp [State.reset, bankOf], fun set => by simp [State.reset] at set⟩, ?_⟩
  intro i s t ok h
  exact exec_selectionAndScanOff ok h

end Sys2Proof.Machine

/-! PROOFS. The step (spec/20_memory.md section 3, spec/30_encoding.md sections 4 and 6): which operation it runs. -/

namespace Sys2Proof.Machine

/-! The answers of the fetch, one by one. -/

theorem step_of_run {s u : State} {i : Instr} (h : fetch s = .run i u) : step s = exec i u := by simp only [step, h]

theorem step_of_stuck {s : State} {f : Fault} (h : fetch s = .stuck f) : step s = .fault f := by simp only [step, h]

theorem fetch_alone {s : State} {d : Due} (hp : s.pending = []) (hn : nextDue s = some d) :
    fetch s = .run d.event (s.advanceTo d.due) := by
  simp only [fetch, hp, hn]

theorem fetch_quiet {s : State} (hp : s.pending = []) (hn : nextDue s = none) : fetch s = .stuck .noOperation := by
  simp only [fetch, hp, hn]

/-! The instant of a line that states none. -/

theorem lineInstant_atOnce {tr : Transaction} (h : tr.when = .atOnce) (i : Instr) (s : State) :
    lineInstant tr i s = (dueOf i s).getD s.now := by
  simp only [lineInstant, h]

theorem lineInstant_later {tr : Transaction} {base : Option Time} {wait : Time} (h : tr.when = .later base wait) (i : Instr)
    (s : State) : lineInstant tr i s =
      (dueOf i s).getD (freeInstant (agentOf i) (max s.lines.last (base.getD s.lines.last + wait)) s) := by
  simp only [lineInstant, h]

section Line

variable {s : State} {tr : Transaction} {rest : List Transaction} {i : Instr} {t : Time}
variable (hp : s.pending = tr :: rest) (hd : decode tr.word = .ok i) (hi : lineInstant tr i s = t)
include hp hd hi

theorem fetch_eventFirst {d : Due} (ho : ownFirst i t s = some d) : fetch s = .run d.event (s.advanceTo d.due) := by
  subst hi
  simp only [fetch, hp, hd, fetchLine, ho]

theorem fetch_instantInPast (ho : ownFirst i t s = none) (past : t < s.now) : fetch s = .stuck .instantInPast := by
  subst hi
  simp only [fetch, hp, hd, fetchLine, ho, past, if_true]

theorem fetch_eventNotEnabled {due : Time} (ho : ownFirst i t s = none) (notPast : s.now ≤ t) (hdue : dueOf i s = some due)
    (off : due ≠ t) : fetch s = .stuck .eventNotEnabled := by
  subst hi
  simp [fetch, hp, hd, fetchLine, ho, not_lt.mpr notPast, offDue, hdue, off]

theorem fetch_busInUse (ho : ownFirst i t s = none) (notPast : s.now ≤ t) (hdue : dueOf i s = none)
    (used : s.lines.lastUse (agentOf i) = some t) : fetch s = .stuck .busInUse := by
  subst hi
  simp [fetch, hp, hd, fetchLine, ho, not_lt.mpr notPast, offDue, hdue, used]

theorem fetch_line (ho : ownFirst i t s = none) (notPast : s.now ≤ t) (onDue : ∀ due, dueOf i s = some due → due = t)
    (free : s.lines.lastUse (agentOf i) ≠ some t) :
    fetch s = .run i (((s.advanceTo t).takeLine (agentOf i) t).present tr.pins rest) := by
  subst hi
  have inTime : offDue i (lineInstant tr i s) s = false := by
    cases hdue : dueOf i s with
    | none => simp [offDue, hdue]
    | some due => simp [offDue, hdue, onDue due hdue]
  simp [fetch, hp, hd, fetchLine, ho, not_lt.mpr notPast, inTime, free]

/-- A line does not wait for the timers due after it. -/
theorem fetch_line_of_notYetDue (notPast : s.now ≤ t)
    (later : ∀ e due, dueOf e s = some due → (e = i ∧ due = t) ∨ (e ≠ i ∧ t < due))
    (free : s.lines.lastUse (agentOf i) ≠ some t) :
    fetch s = .run i (((s.advanceTo t).takeLine (agentOf i) t).present tr.pins rest) := by
  refine fetch_line hp hd hi (ownFirst_eq_none fun e due he => ?_) notPast (fun due he => ?_) free
  · exact (later e due he).imp id And.right
  · rcases later i due he with ⟨-, at'⟩ | ⟨other, -⟩
    · exact at'
    · exact absurd rfl other

end Line

/-! The word the host places. -/

theorem decode_tableWord {nbits w : Nat} {i : Instr} (h : decodeTableWord nbits w = some i) :
    decode (tableWord nbits w) = .ok i := by
  unfold decodeTableWord at h
  split at h
  · split at h
    · next j hj => cases h; exact hj
    · cases h
  · cases h

/-- The line that holds the placed word. -/
def placedLine (s : State) (nbits w : Nat) : Transaction := ⟨.atOnce, tableWord nbits w, s.pins⟩

theorem decode_placedLine (s : State) {nbits w : Nat} {i : Instr} (h : decodeTableWord nbits w = some i) :
    decode (placedLine s nbits w).word = .ok i := decode_tableWord h

theorem withFetchWord_eq_of_ne_frame {s : State} {nbits w : Nat} {i : Instr} (h : decodeTableWord nbits w = some i)
    (notFrame : i ≠ .evFrame) :
    s.withFetchWord nbits w = { s with pending := placedLine s nbits w :: s.pending } := by
  simp [State.withFetchWord, placedLine, h, notFrame]

theorem withFetchWord_eq_of_frame {s : State} {nbits w : Nat} (h : decodeTableWord nbits w = some .evFrame) :
    s.withFetchWord nbits w =
      { s with pending := placedLine s nbits w :: s.pending, frameClock := .onRequest } := by
  simp [State.withFetchWord, placedLine, h]

/-- What is due depends on the three fields that hold the timers and the frame clock. -/
theorem dueOf_congr {s u : State} (hb : u.bridge = s.bridge) (hc : u.controller = s.controller)
    (hf : u.frameClock = s.frameClock) (e : Instr) : dueOf e u = dueOf e s := by
  cases e <;> simp only [dueOf, hb, hc, hf]

theorem dueOf_onRequest {s u : State} (hb : u.bridge = s.bridge) (hc : u.controller = s.controller)
    (hf : u.frameClock = .onRequest) (e : Instr) : dueOf e u = if e = .evFrame then none else dueOf e s := by
  cases e <;> simp [dueOf, hb, hc, hf, frameDue]

theorem step_withFetchWord {s : State} {nbits w : Nat} {i : Instr} (h : decodeTableWord nbits w = some i)
    (notFrame : i ≠ .evFrame) (own : dueOf i s = none) (later : ∀ e due, dueOf e s = some due → s.now < due)
    (free : s.lines.lastUse (agentOf i) ≠ some s.now) :
    step (s.withFetchWord nbits w) = exec i { s with lines := s.lines.take (agentOf i) s.now } := by
  rw [withFetchWord_eq_of_ne_frame h notFrame]
  have same := dueOf_congr (s := s) (u := { s with pending := placedLine s nbits w :: s.pending }) rfl rfl rfl
  refine step_of_run (fetch_line_of_notYetDue (t := s.now) (tr := placedLine s nbits w) rfl (decode_placedLine s h) ?_ le_rfl
    ?_ free)
  · rw [lineInstant_atOnce rfl, same, own, Option.getD_none]
  · intro e due he
    rw [same] at he
    refine .inr ⟨?_, later e due he⟩
    rintro rfl
    simp [own] at he

theorem step_withFetchWord_frame {s : State} {nbits w : Nat} (h : decodeTableWord nbits w = some .evFrame)
    (later : ∀ e due, e ≠ .evFrame → dueOf e s = some due → s.now < due) :
    step (s.withFetchWord nbits w) =
      exec .evFrame { s with frameClock := .onRequest, lines := s.lines.take .frameClock s.now } := by
  rw [withFetchWord_eq_of_frame h]
  have same := dueOf_onRequest (s := s)
    (u := { s with pending := placedLine s nbits w :: s.pending, frameClock := .onRequest }) rfl rfl rfl
  refine step_of_run (fetch_line_of_notYetDue (t := s.now) (tr := placedLine s nbits w) rfl (decode_placedLine s h) ?_ le_rfl
    ?_ ?_)
  · rw [lineInstant_atOnce rfl, same, if_pos rfl, Option.getD_none]
  · intro e due he
    rw [same] at he
    split at he
    · cases he
    · next other => exact .inr ⟨other, later e due other he⟩
  · simp [agentOf, LineClock.lastUse]

/-- Settles O5: the fetch's answers, one clause each. -/
theorem stepRunsTheDecodedOperation : Obligations.StepRunsTheDecodedOperation := by
  refine ⟨?line, ?notYetDue, ?eventFirst, ?alone, ?quiet, ?past, ?offDue, ?busInUse, ?placed, ?placedFrame⟩
  case line =>
    intro s tr rest i t hp hd hi ho notPast onDue free
    exact step_of_run (fetch_line hp hd hi ho notPast onDue free)
  case notYetDue =>
    intro s tr rest i t hp hd hi notPast later free
    exact step_of_run (fetch_line_of_notYetDue hp hd hi notPast later free)
  case eventFirst => intro s tr rest i t d hp hd hi ho; exact step_of_run (fetch_eventFirst hp hd hi ho)
  case alone => intro s d hp hn; exact step_of_run (fetch_alone hp hn)
  case quiet => intro s hp hn; exact step_of_stuck (fetch_quiet hp hn)
  case past => intro s tr rest i t hp hd hi ho past; exact step_of_stuck (fetch_instantInPast hp hd hi ho past)
  case offDue =>
    intro s tr rest i t due hp hd hi ho notPast hdue off
    exact step_of_stuck (fetch_eventNotEnabled hp hd hi ho notPast hdue off)
  case busInUse =>
    intro s tr rest i t hp hd hi ho notPast hdue used
    exact step_of_stuck (fetch_busInUse hp hd hi ho notPast hdue used)
  case placed => intro s nbits w i h notFrame own later free; exact step_withFetchWord h notFrame own later free
  case placedFrame => intro s nbits w h later; exact step_withFetchWord_frame h later

/-! The timer events. -/

/-- The next timer event is one of the five. -/
theorem tieRank_nextDue {s : State} {d : Due} (h : nextDue s = some d) : tieRank d.event < 2 := by
  obtain ⟨hor, -⟩ := nextDue_some h
  rcases hor with hc | hr | hk | hf
  · rcases cellDue_some hc with ⟨he, -⟩ | ⟨he, -⟩ <;> simp [he, tieRank]
  · simp [(resetDue_some hr).1, tieRank]
  · simp [(kbDue_some hk).1, tieRank]
  · simp [(frameDue_some hf).1, tieRank]

/-- An armed timer leaves a next timer event, due no later. -/
theorem nextDue_of_dueOf {s : State} {e : Instr} {t : Time} (h : dueOf e s = some t) :
    ∃ d, nextDue s = some d ∧ d.due ≤ t := by
  cases hn : nextDue s with
  | none => simp [nextDue_none hn e] at h
  | some d => exact ⟨d, rfl, (nextDue_some hn).2 e t h⟩

/-- Before an operation of rank 2 at `t` every timer due at or before `t` fires. -/
theorem ownFirst_of_due {s : State} {i : Instr} {t : Time} {d : Due} (hn : nextDue s = some d) (rank : tieRank i = 2)
    (pos : 0 < t) (le : d.due ≤ t) : ownFirst i t s = some d := by
  have lower := tieRank_nextDue hn
  have other : d.event ≠ i := fun he => by rw [he, rank] at lower; exact lt_irrefl _ lower
  have first : precedesAtTie d.event i = true := by simp [precedesAtTie, rank, lower]
  have due : d.due < t ∨ (d.due = t ∧ precedesAtTie d.event i = true) := le.lt_or_eq.imp id fun h => ⟨h, first⟩
  simp only [ownFirst, hn, pos.ne', other, due, if_true, if_false]

/-- A cell due with the next timer event is behind a cell's event, if it is not its own. -/
theorem cellDue_of_due {s : State} {d : Due} (hn : nextDue s = some d) {c : Cell}
    (hc : s.bridge.regCell = some c ∨ s.bridge.dataCell = some c) (hd : c.due = d.due) : cellDue s.bridge = some d := by
  by_contra notCell
  obtain ⟨hright, before⟩ := firstDue_right hn notCell
  cases hcd : cellDue s.bridge with
  | none =>
    obtain ⟨hr, hdc⟩ := cellDue_none hcd
    simp [hr, hdc] at hc
  | some x =>
    have hx : x.due ≤ c.due := by
      rcases cellDue_some hcd with ⟨-, a, ha, hax, ho⟩ | ⟨-, a, ha, hax, ho⟩ <;> rcases hc with hc | hc
      · rw [ha] at hc; cases hc; exact hax.ge
      · exact (ho c hc).1
      · exact (ho c hc).1
      · rw [ha] at hc; cases hc; exact hax.ge
    exact absurd (before x hcd) (not_lt.mpr (hd ▸ hx))

/-- Settles O6: the event is `nextDue`'s, which completes (`exec_nextDue`), and `cellDue` orders the cells. -/
theorem dueTimersFireBeforeABusOperation : Obligations.DueTimersFireBeforeABusOperation := by
  intro s tr rest i e₀ t d₀ hp hd hi rank hdue pos le
  obtain ⟨d, hn, hle⟩ := nextDue_of_dueOf hdue
  have ran : step s = exec d.event (s.advanceTo d.due) :=
    step_of_run (fetch_eventFirst hp hd hi (ownFirst_of_due hn rank (pos.trans_le le) (hle.trans le)))
  obtain ⟨u, completes, stays⟩ := exec_nextDue hn
  refine ⟨d.event, d.due, u, dueOf_nextDue hn, hle.trans le, (nextDue_some hn).2, ran, ran.trans completes, stays, ?_, ?_⟩
  · intro c hc hcd
    exact (cellDue_some (cellDue_of_due hn hc hcd)).imp And.left And.left
  · intro r c hr hc hrd hcd
    rcases cellDue_some (cellDue_of_due hn (.inl hr) hrd) with ⟨he, a, ha, -, ho⟩ | ⟨he, a, ha, -, ho⟩
    · rw [hr] at ha; cases ha
      exact ⟨fun _ => he, fun lt => absurd ((ho c hc).2 hcd) (not_le.mpr lt)⟩
    · rw [hc] at ha; cases ha
      exact ⟨fun lt => absurd ((ho r hr).2 hrd) (not_le.mpr lt), fun _ => he⟩

/-- Settles O58: a step that shortens the pending lines took the first of them (`step_next`), on a bus not used then, and
`take` records that bus alone. -/
theorem oneBusCarriesOneOperationAtAnInstant : Obligations.OneBusCarriesOneOperationAtAnInstant := by
  intro s t tr rest i hp hd bus h taken
  rcases step_next h with ⟨d, -, hx⟩ | ⟨tr', rest', j, u, hp', hd', -, -, -, -, free, hx⟩
  · have stays : t.pending = tr :: rest := by rw [exec_pending hx, State.advanceTo_pending, hp]
    simp [taken] at stays
  · rw [hp] at hp'; cases hp'
    rw [hd] at hd'; cases hd'
    have hnow : t.now = u := by simpa using exec_now hx
    have hlines : t.lines = s.lines.take (agentOf i) u := by simpa using exec_lines hx
    rw [hnow, hlines]
    refine ⟨free, by simp [LineClock.lastUse_take, bus], fun a other => ?_⟩
    rw [LineClock.lastUse_take, if_neg fun same => other same.1.symm]

end Sys2Proof.Machine

/-! PROOFS. The invariant of the machine (spec/30_encoding.md section 4, spec/20_memory.md section 3): every operation keeps it
at its instant, and the fetch passes time no further than the next due instant. -/

namespace Sys2Proof.Machine

/-! The fetch. -/

theorem State.Inv.now_le_due {s : State} (inv : s.Inv) {e : Instr} {due : Time} (h : dueOf e s = some due) :
    s.now ≤ due := by
  cases e <;> simp only [dueOf, Option.map_eq_some_iff, reduceCtorEq] at h
  case evRegSync => obtain ⟨c, hc, rfl⟩ := h; exact (inv.bridge.regCell c hc).notOverdue
  case evDataSync => obtain ⟨c, hc, rfl⟩ := h; exact (inv.bridge.dataCell c hc).notOverdue
  case evResetRelease => exact (inv.bridge.resetTimer due h).1
  case evKbTick =>
    obtain ⟨d, hd, rfl⟩ := h
    obtain ⟨-, rate, armed⟩ := kbDue_some hd
    exact (inv.controller.kbTimer rate _ armed).1
  case evFrame => obtain ⟨d, hd, rfl⟩ := h; exact inv.frameClock _ (frameDue_some hd).2

section Chosen

variable {s u : State} {i : Instr} (inv : s.Inv) (c : Chooses s i u)
include inv c

/-- Time does not go back (R14). -/
theorem Chooses.now_le : s.now ≤ u.now := by
  rcases c.source with ⟨hn, -⟩ | ⟨notPast, -⟩
  · exact inv.now_le_due (dueOf_nextDue hn)
  · exact notPast

/-- Time does not pass a due instant (R98). -/
theorem Chooses.notOverdue {e : Instr} {due : Time} (h : dueOf e s = some due) : u.now ≤ due := by
  rcases c.source with ⟨hn, -⟩ | ⟨-, ho, -⟩
  · exact (nextDue_some hn).2 e due h
  · rcases ownFirst_none inv.dueLater ho with all | ⟨d, hn, own⟩
    · exact all e due h
    · have at' : d.due = u.now := c.onDue d.due (own ▸ dueOf_nextDue hn)
      exact at' ▸ (nextDue_some hn).2 e due h

/-- Waiting no longer than the next due instant keeps the cells and the hold timer in order. -/
theorem Chooses.bridgeInv : BridgeInv u.bridge u.now := by
  have le := c.now_le inv
  rw [c.bridge]
  refine ⟨fun x hx => ?_, fun x hx => ?_, inv.bridge.cells, inv.bridge.hold, fun due hdue => ?_⟩
  · obtain ⟨-, withinDelay, numbered⟩ := inv.bridge.regCell x hx
    exact ⟨c.notOverdue inv (e := .evRegSync) (by simp [dueOf, hx]), by linarith, numbered⟩
  · obtain ⟨-, withinDelay, numbered⟩ := inv.bridge.dataCell x hx
    exact ⟨c.notOverdue inv (e := .evDataSync) (by simp [dueOf, hx]), by linarith, numbered⟩
  · obtain ⟨-, within⟩ := inv.bridge.resetTimer due hdue
    exact ⟨c.notOverdue inv (e := .evResetRelease) (by simp [dueOf, hdue]), by linarith⟩

theorem Chooses.controllerInv : ControllerInv u.controller u.now := by
  have le := c.now_le inv
  rw [c.controller]
  refine ⟨inv.controller.bankSel, inv.controller.scanOff, fun rate next armed => ?_⟩
  obtain ⟨-, within⟩ := inv.controller.kbTimer rate next armed
  exact ⟨c.notOverdue inv (e := .evKbTick) (by simp [dueOf, kbDue, armed]), by linarith⟩

theorem Chooses.linesInv : LinesInv u.lines u.now := by
  have le := c.now_le inv
  obtain ⟨last, lastUse⟩ := inv.lines
  rcases c.source with ⟨-, hl, -⟩ | ⟨-, -, hl, -⟩ <;> rw [hl]
  · exact ⟨last.trans le, lastUse⟩
  · refine ⟨le_rfl, fun a t ht => ?_⟩
    rw [LineClock.lastUse_take] at ht
    split at ht
    · cases ht; exact le_rfl
    · exact (lastUse a t ht).trans (last.trans le)

theorem Chooses.keepsInv : u.Inv where
  started := inv.started.trans (c.now_le inv)
  dueLater e due h := inv.dueLater e due (dueOf_congr c.bridge c.controller c.frameClock e ▸ h)
  bridge := c.bridgeInv inv
  controller := c.controllerInv inv
  frameClock next running := c.notOverdue inv (e := .evFrame) (by simp [dueOf, frameDue, ← c.frameClock, running])
  lines := c.linesInv inv

end Chosen

/-! The operations. Each timer's cases: kept, run out, armed by its write, or reset. -/

@[simp] theorem Bridge.clearPending_regCell (b : Bridge) : b.clearPending.regCell = b.regCell := rfl

@[simp] theorem Bridge.clearPending_registerSelect (b : Bridge) : b.clearPending.registerSelect = b.registerSelect := rfl

@[simp] theorem Bridge.clearPending_dataCell (b : Bridge) : b.clearPending.dataCell = b.dataCell := rfl

@[simp] theorem Bridge.clearPending_resetTimer (b : Bridge) : b.clearPending.resetTimer = b.resetTimer := rfl

theorem exec_regCell_cases {i : Instr} {s t : State} (h : exec i s = .next t) :
    (t.bridge.regCell = s.bridge.regCell ∧ t.bridge.registerSelect = s.bridge.registerSelect) ∨
    (∃ c, i = .evRegSync ∧ s.bridge.regCell = some c ∧ cellFires c s.bridge.dataCell s.now = true ∧
      t.bridge.regCell = none ∧ t.bridge.registerSelect = c.value) ∨
    (∃ v, i = .hRegWr v ∧ t.bridge.regCell = some (scheduledCell s.bridge v s.now) ∧
      t.bridge.registerSelect = s.bridge.registerSelect) ∨
    (i = .evDeviceReset ∧ t.bridge = Bridge.deviceReset s.now) := by
  apply exec_next_cases h
  case evRegSync => intro c full fires; exact .inr (.inl ⟨c, rfl, full, fires, rfl, rfl⟩)
  case hRegWr => intro v; exact .inr (.inr (.inl ⟨v, rfl, rfl, rfl⟩))
  case evDeviceReset => exact .inr (.inr (.inr ⟨rfl, rfl⟩))
  case cDataRd => intro; exact .inl (by simp)
  all_goals intros; exact .inl ⟨rfl, rfl⟩

theorem exec_dataCell_cases {i : Instr} {s t : State} (h : exec i s = .next t) :
    (t.bridge.dataCell = s.bridge.dataCell ∧ t.bridge.writeData = s.bridge.writeData ∧
      (t.bridge.writePending = true → s.bridge.writePending = true)) ∨
    (∃ c, i = .evDataSync ∧ s.bridge.dataCell = some c ∧ cellFires c s.bridge.regCell s.now = true ∧
      t.bridge.dataCell = none ∧ t.bridge.writeData = c.value) ∨
    (∃ v, i = .hDataWr v ∧ t.bridge.dataCell = some (scheduledCell s.bridge v s.now) ∧
      t.bridge.writeData = s.bridge.writeData) ∨
    (i = .evDeviceReset ∧ t.bridge = Bridge.deviceReset s.now) := by
  apply exec_next_cases h
  case evDataSync => intro c full fires; exact .inr (.inl ⟨c, rfl, full, fires, rfl, rfl⟩)
  case hDataWr => intro v; exact .inr (.inr (.inl ⟨v, rfl, rfl, rfl⟩))
  case evDeviceReset => exact .inr (.inr (.inr ⟨rfl, rfl⟩))
  case cDataRd => intro; exact .inl (by simp)
  all_goals intros; exact .inl ⟨rfl, rfl, id⟩

theorem exec_resetTimer_cases {i : Instr} {s t : State} (h : exec i s = .next t) :
    (t.bridge.resetTimer = s.bridge.resetTimer ∧ t.bridge.coreReset = s.bridge.coreReset) ∨
    (i = .evResetRelease ∧ s.bridge.resetTimer = some s.now ∧ t.bridge.resetTimer = none ∧ t.bridge.coreReset = false) ∨
    (i = .evDeviceReset ∧ t.bridge = Bridge.deviceReset s.now) := by
  apply exec_next_cases h
  case evResetRelease => intro due; exact .inr (.inl ⟨rfl, due, rfl, rfl⟩)
  case evDeviceReset => exact .inr (.inr ⟨rfl, rfl⟩)
  case cDataRd => intro; exact .inl (by simp)
  all_goals intros; exact .inl ⟨rfl, rfl⟩

theorem exec_kbTimer_cases {i : Instr} {s t : State} (h : exec i s = .next t) :
    (t.controller.kbTimer = s.controller.kbTimer ∧ i ≠ .evKbTick) ∨
    (∃ rate, i = .evKbTick ∧ s.controller.kbTimer = .armed rate s.now ∧
      t.controller.kbTimer = .armed rate (s.now + period rate)) ∨
    (∃ v, i = .kbmWr v ∧
      t.controller.kbTimer = kbTimerAfterWrite s.controller.kbMatrix v s.now s.controller.kbTimer) ∨
    (i = .evDeviceReset ∧ t.controller = Controller.deviceReset s.now) := by
  apply exec_next_cases h
  case evKbTick => intro rate due; exact .inr (.inl ⟨rate, rfl, due, rfl⟩)
  case kbmWr => intro v; exact .inr (.inr (.inl ⟨v, rfl, rfl⟩))
  case evDeviceReset => exact .inr (.inr (.inr ⟨rfl, rfl⟩))
  case cDataRd => intro; exact .inl (by simp)
  all_goals intros; exact .inl ⟨rfl, by simp⟩

/-- A scan timer that reset arms ticks first one period after it (R262). -/
theorem kbTimerAtReset_armed {state : Option ScanRate} {now : Time} {rate : ScanRate} {next : Time}
    (h : kbTimerAtReset state now = .armed rate next) : next = now + period rate := by
  cases state <;> cases h; rfl

/-- A cell scheduled now is in order, and its number is the next one. -/
theorem scheduledCell_inOrder (b : Bridge) (v : Half) (now : Time) :
    CellInOrder (scheduledCell b v now) now (b.nextSeq + 1) :=
  ⟨le_add_of_nonneg_right syncDelay_pos.le, le_rfl, Nat.lt_succ_self _⟩

theorem CellInOrder.mono {c : Cell} {now : Time} {n : Nat} (h : CellInOrder c now n) : CellInOrder c now (n + 1) :=
  ⟨h.notOverdue, h.withinDelay, h.numbered.trans (Nat.lt_succ_self n)⟩

theorem captureReg_bridgeInv {b : Bridge} {now : Time} (inv : BridgeInv b now) (v : Half) :
    BridgeInv (b.captureReg v now) now where
  regCell _ hc := Option.some.inj hc ▸ scheduledCell_inOrder b v now
  dataCell c hc := (inv.dataCell c hc).mono
  cells _ d hr hd := Option.some.inj hr ▸ .inr ⟨(inv.dataCell d hd).numbered, (inv.dataCell d hd).withinDelay⟩
  hold := inv.hold
  resetTimer := inv.resetTimer

theorem captureData_bridgeInv {b : Bridge} {now : Time} (inv : BridgeInv b now) (v : Half) :
    BridgeInv (b.captureData v now) now where
  regCell c hc := (inv.regCell c hc).mono
  dataCell _ hc := Option.some.inj hc ▸ scheduledCell_inOrder b v now
  cells r _ hr hd := Option.some.inj hd ▸ .inl ⟨(inv.regCell r hr).numbered, (inv.regCell r hr).withinDelay⟩
  hold := inv.hold
  resetTimer := inv.resetTimer

theorem deviceReset_bridgeInv (now : Time) : BridgeInv (Bridge.deviceReset now) now where
  regCell _ hc := by cases hc
  dataCell _ hc := by cases hc
  cells _ _ hr := by cases hr
  hold := rfl
  resetTimer _ h := Option.some.inj h ▸ ⟨le_add_of_nonneg_right resetHoldTime_pos.le, le_rfl⟩

theorem exec_bridgeInv {i : Instr} {s t : State} (inv : BridgeInv s.bridge s.now) (h : exec i s = .next t) :
    BridgeInv t.bridge s.now := by
  apply exec_next_cases h
  case hRegWr => intro v; exact captureReg_bridgeInv inv v
  case hDataWr => intro v; exact captureData_bridgeInv inv v
  case evRegSync =>
    intros
    exact ⟨fun _ hc => (by cases hc), inv.dataCell, fun _ _ hr => (by cases hr), inv.hold, inv.resetTimer⟩
  case evDataSync =>
    intros
    exact ⟨inv.regCell, fun _ hc => (by cases hc), fun _ _ _ hd => (by cases hd), inv.hold, inv.resetTimer⟩
  case evResetRelease => intro; exact ⟨inv.regCell, inv.dataCell, inv.cells, rfl, fun _ hd => (by cases hd)⟩
  case evDeviceReset => exact deviceReset_bridgeInv s.now
  case cDataRd =>
    intro
    rw [State.emitReady_bridge]
    exact ⟨inv.regCell, inv.dataCell, inv.cells, inv.hold, inv.resetTimer⟩
  all_goals intros; exact ⟨inv.regCell, inv.dataCell, inv.cells, inv.hold, inv.resetTimer⟩

/-- A scan timer armed by an operation ticks first one period after it. -/
theorem exec_armed {i : Instr} {s t : State} (h : exec i s = .next t) {rate : ScanRate} {next : Time}
    (armed : t.controller.kbTimer = .armed rate next) :
    s.controller.kbTimer = .armed rate next ∨ next = s.now + period rate := by
  rcases exec_kbTimer_cases h with ⟨keep, -⟩ | ⟨r, -, -, ticked⟩ | ⟨v, -, written⟩ | ⟨-, reset⟩
  · exact .inl (keep ▸ armed)
  · cases ticked.symm.trans armed; exact .inr rfl
  · rcases kbTimerAfterWrite_cases s.controller.kbMatrix v s.now s.controller.kbTimer with keep | off | ⟨r, on⟩
    · exact .inl (keep ▸ written ▸ armed)
    · cases (written.trans off).symm.trans armed
    · cases (written.trans on).symm.trans armed; exact .inr rfl
  · rw [reset] at armed
    exact .inr (kbTimerAtReset_armed armed)

theorem exec_controllerInv {i : Instr} {s t : State} (inv : ControllerInv s.controller s.now) (h : exec i s = .next t) :
    ControllerInv t.controller s.now := by
  obtain ⟨sel, off⟩ := exec_selectionAndScanOff ⟨inv.bankSel, inv.scanOff⟩ h
  refine ⟨sel, off, fun rate next armed => ?_⟩
  rcases exec_armed h armed with before | rfl
  · exact inv.kbTimer rate next before
  · exact ⟨le_add_of_nonneg_right (period_pos rate).le, le_rfl⟩

/-- The frame clock moves by its own event only. -/
theorem exec_frameClock {i : Instr} {s t : State} (h : exec i s = .next t) :
    t.frameClock = if i = .evFrame then s.frameClock.tick else s.frameClock := by
  apply exec_next_cases h
  all_goals intros; simp

theorem exec_running {i : Instr} {s t : State} (h : exec i s = .next t) {next : Time}
    (running : t.frameClock = .running next) :
    s.frameClock = .running next ∨ ∃ before, s.frameClock = .running before ∧ before < next := by
  rw [exec_frameClock h] at running
  split at running
  · cases hf : s.frameClock with
    | onRequest => simp [hf] at running
    | running before =>
      simp only [hf, FrameClock.tick_running, FrameClock.running.injEq] at running
      exact .inr ⟨before, rfl, running ▸ lt_add_of_pos_right before framePeriod_pos⟩
  · exact .inl running

/-! A cell or hold timer armed by an operation is due its full delay after it. -/

theorem exec_regCell_some {i : Instr} {s t : State} (h : exec i s = .next t) {c : Cell}
    (full : t.bridge.regCell = some c) :
    s.bridge.regCell = some c ∨ c.due = s.now + Config.syncDelay := by
  rcases exec_regCell_cases h with ⟨keep, -⟩ | ⟨x, -, -, -, empty, -⟩ | ⟨v, -, new, -⟩ | ⟨-, reset⟩
  · exact .inl (keep ▸ full)
  · cases empty.symm.trans full
  · cases new.symm.trans full; exact .inr rfl
  · rw [reset] at full; cases full

theorem exec_dataCell_some {i : Instr} {s t : State} (h : exec i s = .next t) {c : Cell}
    (full : t.bridge.dataCell = some c) :
    s.bridge.dataCell = some c ∨ c.due = s.now + Config.syncDelay := by
  rcases exec_dataCell_cases h with ⟨keep, -⟩ | ⟨x, -, -, -, empty, -⟩ | ⟨v, -, new, -⟩ | ⟨-, reset⟩
  · exact .inl (keep ▸ full)
  · cases empty.symm.trans full
  · cases new.symm.trans full; exact .inr rfl
  · rw [reset] at full; cases full

theorem exec_resetTimer_some {i : Instr} {s t : State} (h : exec i s = .next t) {due : Time}
    (held : t.bridge.resetTimer = some due) :
    s.bridge.resetTimer = some due ∨ due = s.now + Config.resetHoldTime := by
  rcases exec_resetTimer_cases h with ⟨keep, -⟩ | ⟨-, -, off, -⟩ | ⟨-, reset⟩
  · exact .inl (keep ▸ held)
  · cases off.symm.trans held
  · rw [reset] at held; cases held; exact .inr rfl

/-- What is due after an operation is due after the power-up instant: every timer is armed a positive time ahead. -/
theorem exec_dueLater {i : Instr} {s t : State} (inv : s.Inv) (h : exec i s = .next t) :
    ∀ e due, dueOf e t = some due → 0 < due := by
  have ahead {d : Time} (pos : 0 < d) : 0 < s.now + d := add_pos_of_nonneg_of_pos inv.started pos
  apply dueLater_of
  case regCell =>
    intro c hc
    rcases exec_regCell_some h hc with before | new
    · exact inv.dueLater .evRegSync c.due (by simp [dueOf, before])
    · exact new ▸ ahead syncDelay_pos
  case dataCell =>
    intro c hc
    rcases exec_dataCell_some h hc with before | new
    · exact inv.dueLater .evDataSync c.due (by simp [dueOf, before])
    · exact new ▸ ahead syncDelay_pos
  case resetTimer =>
    intro due hd
    rcases exec_resetTimer_some h hd with before | new
    · exact inv.dueLater .evResetRelease due before
    · exact new ▸ ahead resetHoldTime_pos
  case kbTimer =>
    intro rate next armed
    rcases exec_armed h armed with before | new
    · exact inv.dueLater .evKbTick next (by simp [dueOf, kbDue, before])
    · exact new ▸ ahead (period_pos rate)
  case frameClock =>
    intro next running
    rcases exec_running h running with before | ⟨b, before, lt⟩
    · exact inv.dueLater .evFrame next (by simp [dueOf, frameDue, before])
    · exact (inv.dueLater .evFrame b (by simp [dueOf, frameDue, before])).trans lt

theorem exec_inv {i : Instr} {s t : State} (inv : s.Inv) (h : exec i s = .next t) : t.Inv where
  started := exec_now h ▸ inv.started
  dueLater := exec_dueLater inv h
  bridge := exec_now h ▸ exec_bridgeInv inv.bridge h
  controller := exec_now h ▸ exec_controllerInv inv.controller h
  frameClock next running := by
    rw [exec_now h]
    rcases exec_running h running with before | ⟨b, before, lt⟩
    · exact inv.frameClock next before
    · exact (inv.frameClock b before).trans lt.le
  lines := by rw [exec_now h, exec_lines h]; exact inv.lines

theorem step_inv {s t : State} (inv : s.Inv) (h : step s = .next t) : t.Inv := by
  obtain ⟨i, u, c, hx⟩ := step_chooses h
  exact exec_inv (c.keepsInv inv) hx

/-- Settles O9: the fetch keeps the invariant (`Chooses.keepsInv`), and so does every operation (`exec_inv`). -/
theorem stepKeepsTheInvariant : Obligations.StepKeepsTheInvariant := fun _ _ => step_inv

/-- Settles O10: the fetch does not go back (`Chooses.now_le`), and an operation takes no time (`exec_now`). -/
theorem timeNeverDecreases : Obligations.TimeNeverDecreases := by
  intro s t inv h
  obtain ⟨i, u, c, hx⟩ := step_chooses h
  exact exec_now hx ▸ c.now_le inv

/-- The frame clock at power-up has no frame due at the power-up instant. -/
theorem frameClockAtStart_running {start : Option Time} {next : Time} (h : frameClockAtStart start = .running next) :
    0 < next := by
  unfold frameClockAtStart at h
  split at h
  · cases h
  · cases h
    split
    · assumption
    · exact framePeriod_pos

/-- Settles O8: the Bridge is that of a device reset at instant 0, the latches are 0, and each timer is armed a positive time
ahead. -/
theorem resetMeetsTheInvariant : Obligations.ResetMeetsTheInvariant where
  started := le_rfl
  dueLater := by
    apply dueLater_of
    case regCell | dataCell => intro c hc; cases hc
    case resetTimer => intro due hd; cases hd; simpa using resetHoldTime_pos
    case kbTimer => intro rate next armed; rw [kbTimerAtReset_armed (now := 0) armed]; simpa using period_pos rate
    case frameClock => intro next running; exact frameClockAtStart_running running
  bridge := deviceReset_bridgeInv 0
  controller := by
    obtain ⟨⟨sel, off⟩, -⟩ := operationsKeepSelectionAndScanOff
    refine ⟨sel, off, fun rate next armed => ?_⟩
    rw [kbTimerAtReset_armed (now := 0) armed]
    exact ⟨le_add_of_nonneg_right (period_pos rate).le, le_rfl⟩
  frameClock next running := (frameClockAtStart_running running).le
  lines := ⟨le_rfl, fun a u h => by cases a <;> cases h⟩

end Sys2Proof.Machine

/-! PROOFS. A line that states no instant (spec/30_encoding.md section 6, R101). -/

namespace Sys2Proof.Machine

/-- The line states no instant, or is one of the later frames of a request. -/
def Unstated (tr : Transaction) (i : Instr) : Prop :=
  (∃ base wait, tr.when = .later base wait) ∨ (tr.when = .atOnce ∧ i = .evFrame)

theorem lineInstant_of_armed {s : State} {tr : Transaction} {i : Instr} {due : Time} (un : Unstated tr i)
    (armed : dueOf i s = some due) : lineInstant tr i s = due := by
  rcases un with ⟨base, wait, later⟩ | ⟨atOnce, -⟩
  · rw [lineInstant_later later, armed, Option.getD_some]
  · rw [lineInstant_atOnce atOnce, armed, Option.getD_some]

/-- With no timer of its own armed, such a line is a frame at the present instant, or takes place at a free instant no earlier
than the line before. -/
theorem lineInstant_of_notArmed {tr : Transaction} {i : Instr} (un : Unstated tr i) (l : LineClock) :
    (i = .evFrame ∧ ∀ s, dueOf i s = none → lineInstant tr i s = s.now) ∨
    ∃ earliest, l.last ≤ earliest ∧
      ∀ s, s.lines = l → dueOf i s = none → lineInstant tr i s = freeInstant (agentOf i) earliest s := by
  rcases un with ⟨base, wait, later⟩ | ⟨atOnce, frame⟩
  · refine .inr ⟨max l.last (base.getD l.last + wait), le_max_left _ _, fun s lines notArmed => ?_⟩
    rw [lineInstant_later later, notArmed, lines, Option.getD_none]
  · exact .inl ⟨frame, fun s notArmed => by rw [lineInstant_atOnce atOnce, notArmed, Option.getD_none]⟩

/-- The agent of a timer event has no bus. -/
theorem lastUse_of_armed {s : State} {i : Instr} {due : Time} (armed : dueOf i s = some due) (l : LineClock) :
    l.lastUse (agentOf i) = none := by
  cases i <;> simp only [dueOf, reduceCtorEq] at armed <;> rfl

/-- The instant of such a line is not past, is its due one if it has one, and finds its bus free. -/
theorem lineInstant_ok {s : State} {tr : Transaction} {i : Instr} (inv : s.Inv) (un : Unstated tr i) :
    s.now ≤ lineInstant tr i s ∧ (∀ due, dueOf i s = some due → due = lineInstant tr i s) ∧
      s.lines.lastUse (agentOf i) ≠ some (lineInstant tr i s) := by
  cases hdue : dueOf i s with
  | some due =>
    rw [lineInstant_of_armed un hdue, lastUse_of_armed hdue]
    exact ⟨inv.now_le_due hdue, fun _ h => (Option.some.inj h).symm, Option.some_ne_none due |>.symm⟩
  | none =>
    rcases lineInstant_of_notArmed un s.lines with ⟨frame, atNow⟩ | ⟨earliest, last, free⟩
    · rw [atNow s hdue, frame]
      exact ⟨le_rfl, nofun, nofun⟩
    · rw [free s rfl hdue]
      exact ⟨le_freeInstant _ _ s, nofun, lastUse_ne_freeInstant fun u hu => (inv.lines.lastUse _ u hu).trans last⟩

/-- A free instant depends on the present one and on where the trace stands. -/
theorem freeInstant_congr {s u : State} (hnow : u.now = s.now) (hlines : u.lines = s.lines) (a : Agent) (earliest : Time) :
    freeInstant a earliest u = freeInstant a earliest s := by
  rw [freeInstant, freeInstant, hnow, hlines]

/-- A timer event before such a line leaves it its instant. -/
theorem lineInstant_of_nextDue {s u : State} {tr : Transaction} {i : Instr} {d : Due} (inv : s.Inv) (un : Unstated tr i)
    (hn : nextDue s = some d) (other : d.event ≠ i) (notLater : d.due ≤ lineInstant tr i s)
    (hx : exec d.event (s.advanceTo d.due) = .next u) : lineInstant tr i u = lineInstant tr i s := by
  have notPast : s.now ≤ d.due := inv.now_le_due (dueOf_nextDue hn)
  have same : dueOf i u = dueOf i s := dueOf_of_nextDue hn hx other.symm
  have hnow : u.now = d.due := by simpa using exec_now hx
  have hlines : u.lines = s.lines := by simpa using exec_lines hx
  cases hdue : dueOf i s with
  | some due => rw [lineInstant_of_armed un (same.trans hdue), lineInstant_of_armed un hdue]
  | none =>
    rcases lineInstant_of_notArmed un s.lines with ⟨-, atNow⟩ | ⟨earliest, -, free⟩
    · rw [atNow s hdue] at notLater ⊢
      rw [atNow u (same.trans hdue), hnow]
      exact le_antisymm notLater notPast
    · rw [free s rfl hdue] at notLater ⊢
      rw [free u hlines (same.trans hdue), freeInstant_congr (s := s.advanceTo d.due) hnow hlines,
        freeInstant_advanceTo notPast notLater]

/-- Settles O59: the line's instant is in order (`lineInstant_ok`), so the fetch answers the line or the timer event that comes
before it, which leaves the instant as it is (`lineInstant_of_nextDue`). -/
theorem aLineWithoutInstantFindsOne : Obligations.ALineWithoutInstantFindsOne := by
  intro s tr rest i t inv hp hd un hi
  obtain ⟨notPast, onDue, free⟩ := lineInstant_ok inv un
  rw [hi] at notPast onDue free
  refine ⟨notPast, onDue, free, ?_⟩
  cases ho : ownFirst i t s with
  | none => exact .inl (step_of_run (fetch_line hp hd hi ho notPast onDue free))
  | some d =>
    obtain ⟨hn, other, before⟩ := ownFirst_some ho
    have le : d.due ≤ t := before.elim le_of_lt fun h => h.1.le
    have ran : step s = exec d.event (s.advanceTo d.due) := step_of_run (fetch_eventFirst hp hd hi ho)
    obtain ⟨u, completes, stays⟩ := exec_nextDue hn
    exact .inr ⟨d.event, d.due, u, other, dueOf_nextDue hn, le, ran, ran.trans completes, stays,
      (lineInstant_of_nextDue inv un hn other (hi ▸ le) completes).trans hi⟩

end Sys2Proof.Machine

/-! PROOFS. Runs (spec/20_memory.md section 3, spec/40_bridge_host_ports.md section 5, spec/44_keyboard.md section 3): what every
step keeps holds after any number of steps. -/

namespace Sys2Proof.Machine

theorem runSteps_succ {k : Nat} {s t : State} :
    runSteps (k + 1) s = .next t ↔ ∃ u, step s = .next u ∧ runSteps k u = .next t := by
  cases h : step s <;> simp [runSteps, Host.Core.run, core, h]

theorem runSteps_keeps {P : State → Prop} (keep : ∀ s t, P s → step s = .next t → P t) :
    ∀ {k : Nat} {s t : State}, P s → runSteps k s = .next t → P t
  | 0, _, _, hs, h => by cases h; exact hs
  | _ + 1, _, _, hs, h => by
    obtain ⟨u, first, rest⟩ := runSteps_succ.mp h
    exact runSteps_keeps keep (keep _ u hs first) rest

/-- An operation the fetch chooses is not one that no pending word decodes to, the timer events apart. -/
theorem Chooses.undisturbed {s u : State} {i : Instr} {p : Instr → Bool} (c : Chooses s i u)
    (timers : ∀ e, tieRank e < 2 → p e = false) (np : s.noPending p) : p i = false ∧ u.noPending p := by
  rcases c.source with ⟨hn, -, pending⟩ | ⟨-, -, -, tr, pending, decoded⟩
  · exact ⟨timers i (tieRank_nextDue hn), fun tr htr => np tr (pending ▸ htr)⟩
  · exact ⟨np tr (pending ▸ List.mem_cons_self) i decoded, fun x hx => np x (pending ▸ List.mem_cons_of_mem tr hx)⟩

/-- The runs in which no pending word decodes to an operation for which `p` holds: what the other operations keep holds after
any number of steps. -/
theorem runSteps_keeps_undisturbed {p : Instr → Bool} (timers : ∀ e, tieRank e < 2 → p e = false) {P : State → Prop}
    (keep : ∀ s i u t, P s → Chooses s i u → p i = false → exec i u = .next t → P t) {k : Nat} {s t : State}
    (np : s.noPending p) (hs : P s) (h : runSteps k s = .next t) : P t := by
  refine (runSteps_keeps (P := fun s => s.noPending p ∧ P s) ?_ ⟨np, hs⟩ h).2
  intro s t ⟨np, hs⟩ h
  obtain ⟨i, u, c, hx⟩ := step_chooses h
  obtain ⟨spared, np'⟩ := c.undisturbed timers np
  exact ⟨fun tr htr => np' tr (exec_pending hx ▸ htr), keep s i u t hs c spared hx⟩

/-- The same from a state that meets the invariant, which every state of the run then meets. -/
theorem runSteps_keeps_of_inv {p : Instr → Bool} (timers : ∀ e, tieRank e < 2 → p e = false) {P : State → Prop}
    (keep : ∀ s i u t, s.Inv → P s → Chooses s i u → p i = false → exec i u = .next t → P t) {k : Nat} {s t : State}
    (inv : s.Inv) (np : s.noPending p) (hs : P s) (h : runSteps k s = .next t) : t.Inv ∧ P t :=
  runSteps_keeps_undisturbed timers (P := fun s => s.Inv ∧ P s)
    (fun s i u t ⟨inv, hs⟩ c spared hx => ⟨exec_inv (c.keepsInv inv) hx, keep s i u t inv hs c spared hx⟩) np ⟨inv, hs⟩ h

/-- What is false of the five timer events is false of every operation of their ranks. -/
theorem eq_false_of_timer {p : Instr → Bool} (regSync : p .evRegSync = false) (dataSync : p .evDataSync = false)
    (release : p .evResetRelease = false) (frame : p .evFrame = false) (tick : p .evKbTick = false) (e : Instr)
    (he : tieRank e < 2) : p e = false := by
  cases e <;> simp only [tieRank, lt_irrefl] at he <;> assumption

/-! The cells. -/

/-- Of a register-select write in cell `c`, with `old` in the latch before: it waits, or is delivered (R76). -/
def RegWriteAt (old : Half) (c : Cell) (s : State) : Prop :=
  (s.bridge.regCell = some c ∧ s.bridge.registerSelect = old) ∨
  (s.bridge.regCell = none ∧ s.bridge.registerSelect = c.value ∧ c.due ≤ s.now)

/-- Of a data write in cell `c`, with `old` in the latch and `flag` set before: it waits and the flag has not risen, or is
delivered (R76, R128). -/
def DataWriteAt (old : Half) (flag : Bool) (c : Cell) (s : State) : Prop :=
  (s.bridge.dataCell = some c ∧ s.bridge.writeData = old ∧ (s.bridge.writePending = true → flag = true)) ∨
  (s.bridge.dataCell = none ∧ s.bridge.writeData = c.value ∧ c.due ≤ s.now)

theorem regWriteAt_keeps {old : Half} {c : Cell} (s : State) (i : Instr) (u t : State) (inv : s.Inv)
    (hs : RegWriteAt old c s) (ch : Chooses s i u) (spared : disturbsRegCell i = false) (hx : exec i u = .next t) :
    RegWriteAt old c t := by
  have later : s.now ≤ t.now := exec_now hx ▸ ch.now_le inv
  rcases exec_regCell_cases hx with ⟨cell, latch⟩ | ⟨x, -, full, fires, empty, delivered⟩ | ⟨v, rfl, -⟩ | ⟨rfl, -⟩
  · rw [ch.bridge] at cell latch
    rw [RegWriteAt, cell, latch]
    exact hs.imp id fun ⟨empty, value, due⟩ => ⟨empty, value, due.trans later⟩
  · rw [ch.bridge] at full
    rcases hs with ⟨waits, -⟩ | ⟨empty, -⟩
    · cases waits.symm.trans full
      exact .inr ⟨empty, delivered, ((cellFires_iff.mp fires).1.trans (exec_now hx).symm).le⟩
    · cases empty.symm.trans full
  · cases spared
  · cases spared

theorem dataWriteAt_keeps {old : Half} {flag : Bool} {c : Cell} (s : State) (i : Instr) (u t : State) (inv : s.Inv)
    (hs : DataWriteAt old flag c s) (ch : Chooses s i u) (spared : disturbsDataCell i = false) (hx : exec i u = .next t) :
    DataWriteAt old flag c t := by
  have later : s.now ≤ t.now := exec_now hx ▸ ch.now_le inv
  rcases exec_dataCell_cases hx with ⟨cell, latch, rises⟩ | ⟨x, -, full, fires, empty, delivered⟩ | ⟨v, rfl, -⟩ | ⟨rfl, -⟩
  · rw [ch.bridge] at cell latch rises
    rw [DataWriteAt, cell, latch]
    exact hs.imp (fun ⟨full, value, notRisen⟩ => ⟨full, value, notRisen ∘ rises⟩)
      fun ⟨empty, value, due⟩ => ⟨empty, value, due.trans later⟩
  · rw [ch.bridge] at full
    rcases hs with ⟨waits, -⟩ | ⟨empty, -⟩
    · cases waits.symm.trans full
      exact .inr ⟨empty, delivered, ((cellFires_iff.mp fires).1.trans (exec_now hx).symm).le⟩
    · cases empty.symm.trans full
  · cases spared
  · cases spared

/-- Settles O27: `RegWriteAt` is kept, and the invariant says that a waiting cell is not overdue. -/
theorem registerWriteBecomesVisibleExactlyWhenDue : Obligations.RegisterWriteBecomesVisibleExactlyWhenDue := by
  intro k s t c inv full np h
  have start : RegWriteAt s.bridge.registerSelect c s := .inl ⟨full, rfl⟩
  obtain ⟨inv', at'⟩ := runSteps_keeps_of_inv (eq_false_of_timer rfl rfl rfl rfl rfl) regWriteAt_keeps inv np start h
  exact at'.imp (fun ⟨waits, latch⟩ => ⟨waits, latch, (inv'.bridge.regCell c waits).notOverdue⟩) id

/-- Settles O28: `DataWriteAt` is kept, and the invariant says that a waiting cell is not overdue. -/
theorem dataWriteBecomesVisibleExactlyWhenDue : Obligations.DataWriteBecomesVisibleExactlyWhenDue := by
  intro k s t c inv full np h
  have start : DataWriteAt s.bridge.writeData s.bridge.writePending c s := .inl ⟨full, rfl, id⟩
  obtain ⟨inv', at'⟩ := runSteps_keeps_of_inv (eq_false_of_timer rfl rfl rfl rfl rfl) dataWriteAt_keeps inv np start h
  exact at'.imp (fun ⟨waits, latch, flag⟩ => ⟨waits, latch, (inv'.bridge.dataCell c waits).notOverdue, flag⟩) id

/-- The data cell `d` waits as long as the register cell `r` does. -/
def DataWaitsForReg (r d : Cell) (s : State) : Prop := s.bridge.regCell = some r → s.bridge.dataCell = some d

/-- A data cell scheduled later does not fire while the register cell is full: the register's is due by then, and its lower
number goes first (R77, R80). -/
theorem not_dataFires_before_reg {u : State} {r d : Cell} (inv : u.Inv) (hr : u.bridge.regCell = some r)
    (hd : u.bridge.dataCell = some d) (first : r.seq < d.seq) : cellFires d u.bridge.regCell u.now ≠ true := by
  intro fires
  obtain ⟨due, lowest⟩ := cellFires_iff.mp fires
  rcases inv.bridge.cells r d hr hd with ⟨-, le⟩ | ⟨lt, -⟩
  · have regDue : r.due = u.now := le_antisymm (due ▸ le) (inv.bridge.regCell r hr).notOverdue
    exact absurd (lowest r hr regDue) (not_le.mpr first)
  · exact lt_asymm first lt

theorem dataWaitsForReg_keeps {r d : Cell} (first : r.seq < d.seq) (s : State) (i : Instr) (u t : State) (inv : s.Inv)
    (hs : DataWaitsForReg r d s) (ch : Chooses s i u) (spared : (disturbsRegCell i || disturbsDataCell i) = false)
    (hx : exec i u = .next t) : DataWaitsForReg r d t := by
  intro full
  obtain ⟨spareReg, spareData⟩ := Bool.or_eq_false_iff.mp spared
  have hr : u.bridge.regCell = some r := by
    rcases exec_regCell_cases hx with ⟨cell, -⟩ | ⟨x, -, -, -, empty, -⟩ | ⟨v, rfl, -⟩ | ⟨rfl, -⟩
    · exact cell ▸ full
    · cases empty.symm.trans full
    · cases spareReg
    · cases spareReg
  have hd : u.bridge.dataCell = some d := by rw [ch.bridge] at hr ⊢; exact hs hr
  rcases exec_dataCell_cases hx with ⟨cell, -⟩ | ⟨x, -, hd', fires, -⟩ | ⟨v, rfl, -⟩ | ⟨rfl, -⟩
  · exact cell.trans hd
  · cases hd.symm.trans hd'
    exact absurd fires (not_dataFires_before_reg (ch.keepsInv inv) hr hd first)
  · cases spareData
  · cases spareData

/-- Settles O29: once the data cell is empty the register cell is (`dataWaitsForReg_keeps`), so both are delivered (O27, O28). -/
theorem registerNumberIsDeliveredBeforeItsData : Obligations.RegisterNumberIsDeliveredBeforeItsData := by
  intro k s t r d inv hr hd first npReg npData h empty
  have np : s.noPending fun i => disturbsRegCell i || disturbsDataCell i := fun tr htr i hi =>
    Bool.or_eq_false_iff.mpr ⟨npReg tr htr i hi, npData tr htr i hi⟩
  obtain ⟨-, waits⟩ := runSteps_keeps_of_inv (eq_false_of_timer rfl rfl rfl rfl rfl) (dataWaitsForReg_keeps first) inv np
    (fun _ => hd) h
  refine ⟨?_, ?_⟩
  · rcases registerWriteBecomesVisibleExactlyWhenDue k s t r inv hr npReg h with ⟨full, -⟩ | ⟨-, value, -⟩
    · cases empty.symm.trans (waits full)
    · exact value
  · rcases dataWriteBecomesVisibleExactlyWhenDue k s t d inv hd npData h with ⟨full, -⟩ | ⟨-, value, -⟩
    · cases empty.symm.trans full
    · exact value

/-- Settles O30: the cases of `exec_regCell_cases` at the chosen instant, which is not past the due one. -/
theorem aFullRegisterCellStaysFiresOrIsSuperseded : Obligations.AFullRegisterCellStaysFiresOrIsSuperseded := by
  intro s t c inv full h
  obtain ⟨i, u, ch, hx⟩ := step_chooses h
  have hnow : t.now = u.now := exec_now hx
  refine ⟨hnow ▸ ch.notOverdue inv (e := .evRegSync) (by simp [dueOf, full]), ?_⟩
  rw [← ch.bridge] at full ⊢
  rcases exec_regCell_cases hx with ⟨cell, latch⟩ | ⟨x, -, hc, fires, empty, delivered⟩ | ⟨v, -, new, latch⟩ | ⟨-, reset⟩
  · exact .inl ⟨cell.trans full, latch⟩
  · cases full.symm.trans hc
    exact .inr (.inl ⟨empty, delivered, hnow.trans (cellFires_iff.mp fires).1.symm⟩)
  · exact .inr (.inr (.inl ⟨v, hnow ▸ new, latch⟩))
  · rw [reset]
    exact .inr (.inr (.inr ⟨rfl, rfl, rfl⟩))

/-! The hold. -/

/-- Of a hold due at `due`: the core is held, or released at or after that instant (R263). -/
def HoldAt (due : Time) (s : State) : Prop :=
  (s.bridge.coreReset = true ∧ s.bridge.resetTimer = some due) ∨
  (s.bridge.coreReset = false ∧ s.bridge.resetTimer = none ∧ due ≤ s.now)

theorem holdAt_keeps {due : Time} (s : State) (i : Instr) (u t : State) (inv : s.Inv) (hs : HoldAt due s)
    (ch : Chooses s i u) (spared : decide (i = .evDeviceReset) = false) (hx : exec i u = .next t) : HoldAt due t := by
  have later : s.now ≤ t.now := exec_now hx ▸ ch.now_le inv
  rcases exec_resetTimer_cases hx with ⟨timer, held⟩ | ⟨-, runsOut, off, released⟩ | ⟨rfl, -⟩
  · rw [ch.bridge] at timer held
    rw [HoldAt, timer, held]
    exact hs.imp id fun ⟨free, off, le⟩ => ⟨free, off, le.trans later⟩
  · rw [ch.bridge] at runsOut
    rcases hs with ⟨-, armed⟩ | ⟨-, notArmed, -⟩
    · cases armed.symm.trans runsOut
      exact .inr ⟨released, off, (exec_now hx).ge⟩
    · cases notArmed.symm.trans runsOut
  · cases spared

/-- Settles O57: `HoldAt` is kept, and the invariant says that the hold timer is not overdue. -/
theorem theCoreIsHeldUntilTheReleaseIsDue : Obligations.TheCoreIsHeldUntilTheReleaseIsDue := by
  intro k s t due inv armed np h
  have held : s.bridge.coreReset = true := by rw [inv.bridge.hold, armed, Option.isSome_some]
  have start : HoldAt due s := .inl ⟨held, armed⟩
  obtain ⟨inv', at'⟩ := runSteps_keeps_of_inv (eq_false_of_timer rfl rfl rfl rfl rfl) holdAt_keeps inv np start h
  exact at'.imp (fun ⟨held, armed⟩ => ⟨held, armed, (inv'.bridge.resetTimer due armed).1⟩) id

/-! The recurring clocks. -/

/-- After `n` ticks at `first` and every `per` from there, the last of them past, the next is due at `next`. -/
def Ticked (first per : Time) (n : Nat) (next now : Time) : Prop :=
  next = first + n * per ∧ (0 < n → first + (n - 1) * per ≤ now)

theorem ticked_zero (first per now : Time) : Ticked first per 0 first now := ⟨by simp, fun h => absurd h (lt_irrefl 0)⟩

theorem Ticked.mono {first per next now later : Time} {n : Nat} (h : Ticked first per n next now) (le : now ≤ later) :
    Ticked first per n next later := ⟨h.1, fun pos => (h.2 pos).trans le⟩

theorem Ticked.tick {first per next now : Time} {n : Nat} (h : Ticked first per n next now) :
    Ticked first per (n + 1) (next + per) next := by
  obtain ⟨rfl, -⟩ := h
  refine ⟨?_, fun _ => ?_⟩ <;> push_cast
  · ring
  · exact le_of_eq (by ring)

/-- An operation adds a pulse exactly if it is the scan tick. -/
theorem exec_pulses {i : Instr} {s t : State} (h : exec i s = .next t) :
    t.pulses = s.pulses + if i = .evKbTick then 1 else 0 := by
  rw [State.pulses, exec_outputs h, List.count_append, State.pulses]
  cases i
  case cDataRd => simp only [emitted]; split <;> simp
  all_goals simp [emitted]

/-- An operation adds a frame exactly if it is the frame event. -/
theorem exec_frames {i : Instr} {s t : State} (h : exec i s = .next t) :
    t.frames = s.frames + if i = .evFrame then 1 else 0 := by
  rw [State.frames, exec_outputs h, List.countP_append, State.frames]
  cases i
  case cDataRd => simp only [emitted]; split <;> simp [Output.isFrame]
  all_goals simp [emitted, Output.isFrame]

theorem Chooses.pulses {s u : State} {i : Instr} (c : Chooses s i u) : u.pulses = s.pulses := by
  rw [State.pulses, c.outputs, State.pulses]

theorem Chooses.frames {s u : State} {i : Instr} (c : Chooses s i u) : u.frames = s.frames := by
  rw [State.frames, c.outputs, State.frames]

/-- Settles O53: of the operations that can arm the timer none runs, and a disarmed timer does not tick. -/
theorem aDisarmedTimerNeverPulses : Obligations.ADisarmedTimerNeverPulses := by
  intro k s t off np h
  refine runSteps_keeps_undisturbed (P := fun x => x.pulses = s.pulses ∧ x.controller.kbTimer = .disarmed)
    (eq_false_of_timer rfl rfl rfl rfl rfl) ?_ np ⟨rfl, off⟩ h
  intro x i u y ⟨pulses, off⟩ ch spared hx
  rw [exec_pulses hx, ch.pulses, pulses]
  rcases exec_kbTimer_cases hx with ⟨keep, notTick⟩ | ⟨rate, -, armed, -⟩ | ⟨v, rfl, -⟩ | ⟨rfl, -⟩
  · rw [keep, ch.controller]
    exact ⟨by rw [if_neg notTick, Nat.add_zero], off⟩
  · rw [ch.controller, off] at armed; cases armed
  · cases spared
  · cases spared

/-- Of a scan timer armed at `rate` and due at `first`, with `pulses` before: it has pulsed some number of times (R204). -/
def ScanAt (rate : ScanRate) (first : Time) (pulses : Nat) (s : State) : Prop :=
  ∃ n next, s.pulses = pulses + n ∧ s.controller.kbTimer = .armed rate next ∧ Ticked first (period rate) n next s.now

theorem scanAt_keeps {rate : ScanRate} {first : Time} {pulses : Nat} (s : State) (i : Instr) (u t : State) (inv : s.Inv)
    (hs : ScanAt rate first pulses s) (ch : Chooses s i u) (spared : disturbsScan i = false) (hx : exec i u = .next t) :
    ScanAt rate first pulses t := by
  obtain ⟨n, next, count, armed, ticked⟩ := hs
  have later : s.now ≤ t.now := exec_now hx ▸ ch.now_le inv
  have counted := exec_pulses hx
  rw [ch.pulses, count] at counted
  rcases exec_kbTimer_cases hx with ⟨keep, notTick⟩ | ⟨r, rfl, due, rearmed⟩ | ⟨v, rfl, -⟩ | ⟨rfl, -⟩
  · exact ⟨n, next, by simpa [notTick] using counted, by rw [keep, ch.controller, armed], ticked.mono later⟩
  · rw [ch.controller, armed] at due
    cases due
    exact ⟨n + 1, _, counted, rearmed, exec_now hx ▸ ticked.tick⟩
  · cases spared
  · cases spared

/-- Settles O54: `ScanAt` is kept, and the invariant says that the timer is not overdue. -/
theorem anUndisturbedTimerPulsesEveryPeriod : Obligations.AnUndisturbedTimerPulsesEveryPeriod := by
  intro k s t rate next inv armed np h
  have start : ScanAt rate next s.pulses s := ⟨0, next, rfl, armed, ticked_zero _ _ _⟩
  obtain ⟨inv', n, next', count, armed', rfl, last⟩ :=
    runSteps_keeps_of_inv (eq_false_of_timer rfl rfl rfl rfl rfl) scanAt_keeps inv np start h
  exact ⟨n, count, armed', (inv'.controller.kbTimer rate _ armed').1, last⟩

/-- Of a frame clock due at `first`, with `frames` before: it has given some number of frames (R181). -/
def FramesAt (first : Time) (frames : Nat) (s : State) : Prop :=
  ∃ n next, s.frames = frames + n ∧ s.frameClock = .running next ∧ Ticked first Config.framePeriod n next s.now

theorem framesAt_keeps {first : Time} {frames : Nat} (s : State) (i : Instr) (u t : State) (inv : s.Inv)
    (hs : FramesAt first frames s) (ch : Chooses s i u) (hx : exec i u = .next t) : FramesAt first frames t := by
  obtain ⟨n, next, count, running, ticked⟩ := hs
  have later : s.now ≤ t.now := exec_now hx ▸ ch.now_le inv
  have counted := exec_frames hx
  have clock := exec_frameClock hx
  rw [ch.frames, count] at counted
  rw [ch.frameClock, running] at clock
  by_cases frame : i = .evFrame
  · have due : next = u.now := ch.onDue next (by simp [frame, dueOf, running, frameDue])
    have now : t.now = next := (exec_now hx).trans due.symm
    exact ⟨n + 1, next + Config.framePeriod, by simpa [frame, Nat.add_assoc] using counted, by simpa [frame] using clock,
      now.symm ▸ ticked.tick⟩
  · exact ⟨n, next, by simpa [frame] using counted, by simpa [frame] using clock, ticked.mono later⟩

/-- Settles O60: `FramesAt` is kept by every operation, and the invariant says that the clock is not overdue. -/
theorem aRunningFrameClockSamplesEveryPeriod : Obligations.ARunningFrameClockSamplesEveryPeriod := by
  intro k s t next inv running h
  have start : FramesAt next s.frames s := ⟨0, next, rfl, running, ticked_zero _ _ _⟩
  obtain ⟨inv', n, next', count, running', rfl, last⟩ := runSteps_keeps_of_inv (p := fun _ => false) (fun _ _ => rfl)
    (fun s i u t inv hs ch _ hx => framesAt_keeps s i u t inv hs ch hx) inv (fun _ _ _ _ => rfl) start h
  exact ⟨n, count, running', inv'.frameClock _ running', last⟩

end Sys2Proof.Machine

/-! PROOFS. The two blocks (spec/00_scope.md R1, spec/10_state.md R20): neither reads or changes the other. -/

namespace Sys2Proof.Machine

/-! With the core released the access of each core operation is made. -/

section Released

variable {s : State} (released : s.bridge.coreReset = false)
include released

theorem exec_cDataRd_of_released : exec .cDataRd s = .next
    (((s.putBridge s.bridge.clearPending).answer (.word s.bridge.writeData)).emitReady .onConsume s.bridge.writePending) :=
  exec_cDataRd_next.mpr ⟨released, rfl⟩

theorem exec_cPendRd_of_released : exec .cPendRd s = .next (s.answer (.bit s.bridge.writePending)) := by
  simp only [exec, execCPendRd, coreAccess_released released, Bridge.pendingLine]

theorem exec_cRomRd_of_released :
    exec .cRomRd s = .next (s.answer (.byte (Config.rom (s.bridge.romBank ++ s.bridge.romAddress)))) := by
  simp only [exec, execCRomRd, coreAccess_released released, memRead, romFullAddress_eq_append]

theorem exec_cRomaddrWr_of_released {v : Half} :
    exec (.cRomaddrWr v) s = .next (s.putBridge { s.bridge with romAddress := v }).silent := by
  simp only [exec, execCRomaddrWr, coreWrite, coreAccess_released released]

theorem exec_cRombankWr_of_released {v : Half} :
    exec (.cRombankWr v) s = .next (s.putBridge { s.bridge with romBank := v }).silent := by
  simp only [exec, execCRombankWr, coreWrite, coreAccess_released released]

theorem exec_cLeftWr_of_released {v : Half} :
    exec (.cLeftWr v) s = .next (s.putBridge { s.bridge with leftData := v }).silent := by
  simp only [exec, execCLeftWr, coreWrite, coreAccess_released released]

theorem exec_cRightWr_of_released {v : Half} :
    exec (.cRightWr v) s = .next (s.putBridge { s.bridge with rightData := v }).silent := by
  simp only [exec, execCRightWr, coreWrite, coreAccess_released released]

end Released

theorem exec_controller_of_onBridge {i : Instr} {s t : State} (h : exec i s = .next t) :
    onBridge i = true → t.controller = s.controller := by
  apply exec_next_cases h
  case gaWr0 | gaWr1 | kbmWr => intro v on; cases on
  case evKbTick => intro _ _ on; cases on
  case evDeviceReset => intro on; cases on
  all_goals intros; simp

theorem exec_bridge_of_onController {i : Instr} {s t : State} (h : exec i s = .next t) :
    onController i = true → t.bridge = s.bridge := by
  apply exec_next_cases h
  case hStatusRd | kbRd => intro; rfl
  case gaWr0 | gaWr1 | kbmWr => intros; rfl
  case bankRd | evKbTick => intros; rfl
  all_goals intros; contradiction

/-- What an operation of the Bridge does depends on the Bridge and the instant. -/
theorem exec_of_same_bridge {i : Instr} {s s' t : State} (hb : s'.bridge = s.bridge) (hn : s'.now = s.now)
    (h : exec i s = .next t) :
    onBridge i = true → ∃ t', exec i s' = .next t' ∧ t'.bridge = t.bridge ∧ t'.reply = t.reply := by
  obtain ⟨b, c, n, pins, clock, lines, pending, reply, outputs⟩ := s'
  subst hb hn
  apply exec_next_cases h
  case cRegRd => intro released _; exact ⟨_, exec_cRegRd_of_released released, rfl, rfl⟩
  case cDataRd => intro released _; exact ⟨_, exec_cDataRd_of_released released, by simp, by simp⟩
  case cPendRd => intro released _; exact ⟨_, exec_cPendRd_of_released released, rfl, rfl⟩
  case cRomRd =>
    intro released _
    exact ⟨_, exec_cRomRd_of_released released, rfl, by simp [memRead, romFullAddress_eq_append]⟩
  case cRomaddrWr => intro v released _; refine ⟨_, exec_cRomaddrWr_of_released ?_, rfl, rfl⟩; exact released
  case cRombankWr => intro v released _; refine ⟨_, exec_cRombankWr_of_released ?_, rfl, rfl⟩; exact released
  case cLeftWr => intro v released _; refine ⟨_, exec_cLeftWr_of_released ?_, rfl, rfl⟩; exact released
  case cRightWr => intro v released _; refine ⟨_, exec_cRightWr_of_released ?_, rfl, rfl⟩; exact released
  case evRegSync => intro c full fires _; exact ⟨_, exec_evRegSync_of_fires full fires, rfl, rfl⟩
  case evDataSync => intro c full fires _; exact ⟨_, exec_evDataSync_of_fires full fires, rfl, rfl⟩
  case evResetRelease => intro due _; exact ⟨_, exec_evResetRelease_of_due due, rfl, rfl⟩
  case hStatusRd | evFrame => intro; exact ⟨_, rfl, rfl, rfl⟩
  case hRegWr | hDataWr => intros; exact ⟨_, rfl, rfl, rfl⟩
  all_goals intros; contradiction

/-- What an operation of the Controller does depends on the Controller, the instant and the pins. -/
theorem exec_of_same_controller {i : Instr} {s s' t : State} (hc : s'.controller = s.controller) (hn : s'.now = s.now)
    (hp : s'.pins = s.pins) (h : exec i s = .next t) :
    onController i = true → ∃ t', exec i s' = .next t' ∧ t'.controller = t.controller ∧ t'.reply = t.reply := by
  obtain ⟨b, c, n, pins, clock, lines, pending, reply, outputs⟩ := s'
  subst hc hn hp
  apply exec_next_cases h
  case gaWr0 | gaWr1 | kbmWr => intros; exact ⟨_, rfl, rfl, rfl⟩
  case kbRd => intro; exact ⟨_, rfl, rfl, rfl⟩
  case bankRd => intro off inside _; exact ⟨_, exec_bankRd_of_inside inside, rfl, rfl⟩
  case evKbTick => intro rate due _; exact ⟨_, exec_evKbTick_of_due due, rfl, rfl⟩
  all_goals intros; contradiction

/-- An operation of the Controller emits what it does whatever the Bridge is. -/
theorem emitted_of_onController {i : Instr} (h : onController i = true) (b b' : Bridge) : emitted i b' = emitted i b := by
  cases i <;> simp only [onController, agentOf, Bool.false_eq_true] at h <;> rfl

/-- Settles O16: neither block changes the other, and each block's operations complete alike where it is the same; the events
are `emitted`'s. -/
theorem theTwoBlocksShareNoState : Obligations.TheTwoBlocksShareNoState := by
  refine ⟨fun i s t h => ⟨exec_controller_of_onBridge h, exec_bridge_of_onController h⟩, ?bridge, ?controller⟩
  case bridge =>
    intro i s s' t on hb hn h
    obtain ⟨t', h', sameBridge, sameReply⟩ := exec_of_same_bridge hb hn h on
    exact ⟨t', emitted i s.bridge, h', sameBridge, sameReply, exec_outputs h, hb ▸ exec_outputs h'⟩
  case controller =>
    intro i s s' t on hc hn hp h
    obtain ⟨t', h', sameController, sameReply⟩ := exec_of_same_controller hc hn hp h on
    exact ⟨t', emitted i s.bridge, h', sameController, sameReply, exec_outputs h,
      emitted_of_onController on s.bridge s'.bridge ▸ exec_outputs h'⟩

end Sys2Proof.Machine

/-! PROOFS. The Bridge's ports (spec/40_bridge_host_ports.md, spec/41_bridge_core_ports.md): the next state of each operation, and
the data path's table (R126). -/

namespace Sys2Proof.Machine

/-- Settles O20: the view asks for the decided polarity. -/
theorem statusReadReturnsReady : Obligations.StatusReadReturnsReady := by
  refine ⟨fun d => by simp [decode], fun s => ?_⟩
  have view : s.bridge.status = if s.bridge.writePending = true then 0x0000#16 else 0x0001#16 := by
    unfold Bridge.status
    cases s.bridge.writePending <;> rfl
  rw [← view]
  rfl

/-- Settles O21: the next state is the capture's, and the row of op 0x01 takes all 16 bits. -/
theorem registerWriteFillsOnlyItsCell : Obligations.RegisterWriteFillsOnlyItsCell :=
  ⟨fun v => by simp [decode], fun _ _ => rfl⟩

/-- Settles O22: as O21, of the data cell. -/
theorem dataWriteFillsOnlyItsCell : Obligations.DataWriteFillsOnlyItsCell :=
  ⟨fun v => by simp [decode], fun _ _ => rfl⟩

/-! When `EV_DATA_SYNC` is not enabled. -/

theorem exec_evDataSync_of_empty {s : State} (empty : s.bridge.dataCell = none) :
    exec .evDataSync s = .fault .eventNotEnabled := by
  simp [exec, execEvDataSync, empty]

theorem exec_evDataSync_of_not_fires {s : State} {c : Cell} (full : s.bridge.dataCell = some c)
    (waits : ¬ cellFires c s.bridge.regCell s.now = true) : exec .evDataSync s = .fault .eventNotEnabled := by
  simp [exec, execEvDataSync, full, waits]

/-- Settles O24: `cellFires_iff` says when the full cell fires, and each clause that withholds the delivery denies one of its
two conditions. -/
theorem dataSyncDeliversTheCellAndRaisesTheFlag : Obligations.DataSyncDeliversTheCellAndRaisesTheFlag := by
  refine ⟨fun d => by simp [decode], ?delivers, fun s empty => exec_evDataSync_of_empty empty, ?notDue, ?behindReg⟩
  case delivers => intro s c full due first; exact exec_evDataSync_of_fires full (cellFires_iff.mpr ⟨due, first⟩)
  case notDue =>
    intro s c full notDue
    exact exec_evDataSync_of_not_fires full fun fires => notDue (cellFires_iff.mp fires).1
  case behindReg =>
    intro s c o full regFull regDue lower
    exact exec_evDataSync_of_not_fires full fun fires =>
      Nat.not_le_of_lt lower ((cellFires_iff.mp fires).2 o regFull regDue)

/-! The data path. -/

/-- The control state of a full or empty cell and a flag (R126). -/
def dataPathOf (full flag : Bool) : DataPath :=
  match full, flag with
  | false, false => .idle
  | true, false => .scheduled
  | false, true => .pending
  | true, true => .pendingScheduled

theorem Bridge.dataPath_eq (b : Bridge) : b.dataPath = dataPathOf b.dataCell.isSome b.writePending := rfl

/-- The flag and the cell are left by all but their writers. -/
theorem exec_dataPath_unchanged {i : Instr} {s t : State} (h : exec i s = .next t) (notWrite : ∀ v, i ≠ .hDataWr v)
    (notSync : i ≠ .evDataSync) (notRead : i ≠ .cDataRd) (notReset : i ≠ .evDeviceReset) :
    t.bridge.dataPath = s.bridge.dataPath := by
  obtain ⟨-, -, flagWriters, -, -, -, -, -, -, cellWriters, -⟩ := bridgeFieldsHaveOnlyTheirWriters i s t h notReset
  have cell : t.bridge.dataCell = s.bridge.dataCell := by
    by_contra changed
    rcases cellWriters changed with sync | ⟨v, write⟩
    · exact notSync sync
    · exact notWrite v write
  have flag : t.bridge.writePending = s.bridge.writePending := by
    by_contra changed
    rcases flagWriters changed with ⟨sync, -⟩ | ⟨read, -⟩
    · exact notSync sync
    · exact notRead read
  rw [Bridge.dataPath_eq, Bridge.dataPath_eq, cell, flag]

/-- Settles O26: each writer's next state has its cell and flag in view, and the table is read at the four values of
`dataPathOf`. -/
theorem dataPathFollowsItsTable : Obligations.DataPathFollowsItsTable := by
  refine ⟨?write, ?sync, ?read, ?reset, fun i s t h => exec_dataPath_unchanged h, ?notEnabled, ?views⟩
  case write =>
    intro s t v h
    cases h
    simp only [State.silent_bridge, State.putBridge_bridge, Bridge.dataPath_eq, Bridge.captureData]
    cases s.bridge.dataCell <;> cases s.bridge.writePending <;> rfl
  case sync =>
    intro s t h
    obtain ⟨c, full, due, first⟩ := legal_of_exec_next h
    rw [exec_evDataSync_of_fires full (cellFires_iff.mpr ⟨due, first⟩)] at h
    cases h
    rfl
  case read =>
    intro s t h
    rw [(exec_cDataRd_effect h).1, Bridge.dataPath_eq, Bridge.dataPath_eq, Bridge.clearPending_writePending,
      Bridge.clearPending_dataCell]
    cases s.bridge.dataCell <;> cases s.bridge.writePending <;> rfl
  case reset => intro s t h; cases h; rfl
  case notEnabled =>
    intro s path
    apply exec_evDataSync_of_empty
    rw [Bridge.dataPath_eq] at path
    cases hc : s.bridge.dataCell with
    | none => rfl
    | some c => cases hp : s.bridge.writePending <;> simp [hc, hp, dataPathOf] at path
  case views =>
    intro b
    rw [Bridge.status_getLsbD_zero, Bridge.pendingLine, Bridge.dataPath_eq]
    cases b.dataCell <;> cases b.writePending <;> rfl

/-- Settles O32: the access clears the flag, answers the latch, and emits `ready` under `on_consume` if the flag was set. -/
theorem coreDataReadConsumesTheData : Obligations.CoreDataReadConsumesTheData := by
  refine ⟨fun d => by simp [decode], fun s released => ?_⟩
  rw [exec_cDataRd_of_released released]
  congr 1
  apply State.eq_of_fields
  case hb => rw [State.emitReady_bridge]; rfl
  all_goals simp

/-- Settles O34: the address is bank and offset put together (`romFullAddress_eq_append`). -/
theorem romReadReturnsTheByteUnderTheCursor : Obligations.RomReadReturnsTheByteUnderTheCursor :=
  ⟨fun d => by simp [decode], fun _ => exec_cRomRd_of_released⟩

/-- Settles O35: each write replaces one field of the Bridge. -/
theorem romCursorWritesReplaceTheirHalf : Obligations.RomCursorWritesReplaceTheirHalf :=
  ⟨fun v => by simp [decode], fun _ _ released =>
    ⟨exec_cRomaddrWr_of_released released, exec_cRombankWr_of_released released⟩⟩

/-- Settles O36: each write replaces one field of the Bridge. -/
theorem sampleWritesReplaceTheirChannel : Obligations.SampleWritesReplaceTheirChannel :=
  ⟨fun v => by simp [decode], fun _ _ released =>
    ⟨exec_cLeftWr_of_released released, exec_cRightWr_of_released released⟩⟩

end Sys2Proof.Machine

/-! PROOFS. The sampler (spec/42_audio_sampler.md section 2): one frame, a request for `n`, and a frame between the two channel
writes. -/

namespace Sys2Proof.Machine

/-- The frame of a Bridge's two latches (R181). -/
def frameOf (b : Bridge) : Output := .frame b.leftData.toInt b.rightData.toInt

theorem exec_evFrame (s : State) :
    exec .evFrame s = .next ((s.emit (frameOf s.bridge)).putFrameClock s.frameClock.tick).silent := by
  simp only [exec, execEvFrame, signed16_eq_toInt, frameOf]

theorem execAll_cons {i : Instr} {s t : State} (h : exec i s = .next t) (is : List Instr) :
    execAll (i :: is) s = execAll is t := by
  simp only [execAll, h]

/-- Settles O37: `exec_evFrame`, the clock's tick written out. -/
theorem frameSamplesBothLatches : Obligations.FrameSamplesBothLatches := by
  refine ⟨fun d => by simp [decode], fun s => ?_⟩
  rw [exec_evFrame]
  cases s.frameClock <;> rfl

theorem tick_iterate_onRequest (n : Nat) : FrameClock.tick^[n] .onRequest = .onRequest :=
  Function.iterate_fixed rfl n

/-- `n` ticks put a running clock `n` periods on. -/
theorem tick_iterate_running (n : Nat) (next : Time) :
    FrameClock.tick^[n] (.running next) = .running (next + n * Config.framePeriod) := by
  induction n generalizing next with
  | zero => simp
  | succ n ih =>
    rw [Function.iterate_succ_apply, FrameClock.tick_running, ih]
    congr 1
    push_cast
    ring

/-- `n` frames in a row are equal, for a frame leaves the latches. -/
theorem execAll_frames (n : Nat) (s : State) : execAll (List.replicate n .evFrame) s = .next { s with
    frameClock := FrameClock.tick^[n] s.frameClock
    outputs := s.outputs ++ List.replicate n (frameOf s.bridge)
    reply := if n = 0 then s.reply else none } := by
  induction n generalizing s with
  | zero => simp [execAll]
  | succ n ih =>
    rw [List.replicate_succ, execAll_cons (exec_evFrame s), ih]
    congr 1
    apply State.eq_of_fields <;> simp [List.replicate_succ]

/-- Settles O38: `execAll_frames`, the clock's ticks written out. -/
theorem genYieldsEqualFrames : Obligations.GenYieldsEqualFrames := by
  intro n s
  refine ⟨rfl, ?_⟩
  rw [Pseudo.expand, execAll_frames]
  cases s.frameClock with
  | onRequest => rw [tick_iterate_onRequest]; rfl
  | running next => rw [tick_iterate_running]; rfl

/-- Settles O39: the four operations one after another. -/
theorem frameBetweenChannelWritesIsTorn : Obligations.FrameBetweenChannelWritesIsTorn := by
  intro s l r released
  rw [execAll_cons (exec_cLeftWr_of_released released), execAll_cons (exec_evFrame _),
    execAll_cons (exec_cRightWr_of_released ?stillReleased), execAll_cons (exec_evFrame _)]
  case stillReleased => exact released
  exact ⟨_, rfl, by simp [frameOf]⟩

end Sys2Proof.Machine

/-! PROOFS. The bank window (spec/43_bank_switch.md sections 1 to 3). -/

namespace Sys2Proof.Machine

/-- Settles O42: `exec_gaWr0` and `exec_gaWr1` in either order: the second selection is that of both new latches. -/
theorem latchOrderDoesNotMatter : Obligations.LatchOrderDoesNotMatter := by
  intro s a b
  rw [execAll_cons (exec_gaWr0 a s), execAll_cons (exec_gaWr1 b _), execAll_cons (exec_gaWr1 b s),
    execAll_cons (exec_gaWr0 a _)]
  exact ⟨_, rfl, rfl, rfl, rfl⟩

/-- Settles O43: the table is read at the two latches' being zero and the cards' presence. -/
theorem bankSelectionTruthTable : Obligations.BankSelectionTruthTable := by
  intro g0 g1 card1 card2
  by_cases h0 : g0 = 0#8 <;> by_cases h1 : g1 = 0#8 <;> cases card1 <;> cases card2 <;> simp [bankOf, h0, h1]

/-- Settles O44: the refusal is the other side of the same comparison. -/
theorem windowReadReturnsTheSelectedRegion : Obligations.WindowReadReturnsTheSelectedRegion := by
  refine ⟨fun off => by simp [decode], fun s off => ?_⟩
  by_cases inside : off.toNat < Config.bankWindowSize
  · rw [exec_bankRd_of_inside inside, if_pos inside]
    rfl
  · rw [if_neg inside]
    exact if_pos (Nat.le_of_not_lt inside)

/-- Settles O45: the read's selection is the write's. -/
theorem nextWindowReadSeesTheNewBank : Obligations.NextWindowReadSeesTheNewBank := by
  intro s v off inside
  rw [execAll_cons (exec_gaWr0 v s), execAll_cons (exec_bankRd_of_inside inside), execAll_cons (exec_gaWr1 v s),
    execAll_cons (exec_bankRd_of_inside inside)]
  exact ⟨⟨_, rfl, rfl⟩, ⟨_, rfl, rfl⟩⟩

end Sys2Proof.Machine

/-! PROOFS. The keyboard (spec/44_keyboard.md): the control write's table, the scan tick, the digitizer, the data port. -/

namespace Sys2Proof.Machine

/-- The scan timer after a control write, by the old and the new bits 7 and 6 (the table of R202). -/
def scanTable (old7 old6 new7 new6 : Bool) (now : Time) (t : KbTimer) : KbTimer :=
  match old7, old6, new7, new6 with
  | false, false, false, false => t
  | false, false, false, true => .armed .slow (now + 1 / 32)
  | false, false, true, false => .disarmed
  | false, false, true, true => .disarmed
  | false, true, false, false => .armed .fast (now + 1 / 256)
  | false, true, false, true => t
  | false, true, true, false => .disarmed
  | false, true, true, true => .disarmed
  | true, false, false, false => .armed .active (now + 1 / 192)
  | true, false, false, true => .armed .slow (now + 1 / 32)
  | true, false, true, false => t
  | true, false, true, true => t
  | true, true, false, false => .armed .fast (now + 1 / 256)
  | true, true, false, true => .armed .active (now + 1 / 192)
  | true, true, true, false => t
  | true, true, true, true => t

/-- The three steps of R201 give the table of R202. -/
theorem kbTimerAfterWrite_eq_scanTable (old new : Byte) (now : Time) (t : KbTimer) : kbTimerAfterWrite old new now t =
    scanTable (old.getLsbD 7) (old.getLsbD 6) (new.getLsbD 7) (new.getLsbD 6) now t := by
  unfold kbTimerAfterWrite kbTimerStep3 kbTimerStep2 kbTimerStep1 scanOff slowBit
  cases old.getLsbD 7 <;> cases old.getLsbD 6 <;> cases new.getLsbD 7 <;> cases new.getLsbD 6 <;> simp [scanTable, armAt]

theorem exec_kbmWr (v : Byte) (s : State) : exec (.kbmWr v) s = .next (s.putController { s.controller with
    kbMatrix := v
    kbTimer := scanTable (s.controller.kbMatrix.getLsbD 7) (s.controller.kbMatrix.getLsbD 6) (v.getLsbD 7) (v.getLsbD 6) s.now
      s.controller.kbTimer }).silent := by
  simp only [exec, execKbmWr, kbTimerAfterWrite_eq_scanTable]

/-- Settles O46: `scanTable` is the statement's table. -/
theorem keyboardControlWriteFollowsItsTable : Obligations.KeyboardControlWriteFollowsItsTable := by
  refine ⟨fun hi v => by simp [append_bytes_eq, decode], fun s v => ?_⟩
  rw [exec_kbmWr]
  rfl

/-- Settles O48: at reset `kb_matrix` is 0, so the two writes are a rising bit 7 and then, with bit 6, its fall. -/
theorem scanOffThenSlowArmsAt32Hz : Obligations.ScanOffThenSlowArmsAt32Hz := by
  intro s atReset
  rw [execAll_cons (exec_kbmWr 0x80#8 s), execAll_cons (exec_kbmWr 0x40#8 _)]
  exact ⟨_, rfl, rfl, by simp [scanTable]⟩

/-- Settles O49: the tick re-arms one period on, and the period of each rate is its numeral. -/
theorem scanTickPulsesAndRearms : Obligations.ScanTickPulsesAndRearms := by
  refine ⟨fun d => by simp [decode], ?ticks, ?disarmed, ?notDue⟩
  case ticks =>
    intro s rate due
    rw [exec_evKbTick_of_due due]
    cases rate
    · rw [period_slow]; rfl
    · rw [period_fast]; rfl
    · rw [period_active]; rfl
  case disarmed => intro s off; simp [exec, execEvKbTick, off]
  case notDue => intro s rate next armed notDue; simp [exec, execEvKbTick, armed, notDue]

/-! The digitizer. -/

theorem tsBucket_eq (coordinate : Byte) : tsBucket coordinate = coordinate.toNat / 64 := by
  simp [tsBucket, Nat.shiftRight_eq_div_pow]

theorem tsBucket_le (coordinate : Byte) : tsBucket coordinate ≤ 3 := by
  have := coordinate.isLt
  rw [tsBucket_eq]
  omega

/-- The four bits of the digitizer. -/
theorem tsBit_toNat {yb : Nat} (h : yb ≤ 3) : (tsBit yb).toNat = 0x1000 * 2 ^ yb := by
  interval_cases yb <;> rfl

/-- The digitizer answers on contact, at line 7 plus the X bucket. -/
theorem tsRead_eq (p : Pins) (line : BitVec 4) : tsRead p line =
    if p.tsContact = true ∧ line.toNat = 7 + tsBucket p.tsX then tsBit (tsBucket p.tsY) else 0#16 := by
  have overIntegers : (tsBucket p.tsX : Int) = (line.toNat : Int) - 7 ↔ line.toNat = 7 + tsBucket p.tsX := by omega
  simp only [tsRead, overIntegers]

/-- Settles O50: the condition of `tsRead_eq`, whose buckets are 0 to 3. -/
theorem digitizerAnswersOnlyItsLine : Obligations.DigitizerAnswersOnlyItsLine := by
  intro p line
  rw [tsRead_eq, ← tsBucket_eq, ← tsBucket_eq]
  have bound := tsBucket_le p.tsX
  refine ⟨fun contact hit => ?_, fun miss => ?_, fun outside => ?_⟩
  · rw [if_pos ⟨contact, hit⟩, tsBit_toNat (tsBucket_le p.tsY)]
  · refine if_neg fun ⟨contact, hit⟩ => ?_
    rcases miss with noContact | other
    · cases contact.symm.trans noContact
    · exact other hit
  · exact if_neg fun ⟨_, hit⟩ => by omega

/-! The data port. -/

theorem rowSel_toNat (m : Byte) : (rowSel m).toNat = m.toNat % 16 := by simp [rowSel]

theorem rowSel_eq_sentinel_iff (m : Byte) : rowSel m = sentinelHere ↔ m.toNat % 16 = sentinelHere.toNat := by
  rw [← BitVec.toNat_inj, rowSel_toNat]

theorem keyRow_existing (v : KbVariant) (p : Pins) (r : BitVec 4) (h : r.toNat < nRows v) :
    keyRow v p r = p.rows[r.toNat]'r.isLt := if_pos h

theorem keyRow_missing (v : KbVariant) (p : Pins) (r : BitVec 4) (h : nRows v ≤ r.toNat) : keyRow v p r = 0#16 :=
  if_neg (Nat.not_lt_of_le h)

theorem kbSentinel_v12_toNat (x : Fin 4) : (kbSentinel x .v12).toNat = 12 + x.val := by
  revert x
  decide

/-- Settles O51: the sentinel test splits the port's word, and `allRows_getLsbD` reads the OR bit by bit. -/
theorem keyboardReadReturnsRowOrAllRows : Obligations.KeyboardReadReturnsRowOrAllRows := by
  refine ⟨fun d => by simp [decode], ?data, ?rows, rfl, rfl, fun x => ⟨rfl, kbSentinel_v12_toNat x⟩, ?v13, ?v12⟩
  case data =>
    intro s
    refine ⟨_, rfl, fun other => ?_, fun same j => ?_⟩
    · exact if_neg (mt (rowSel_eq_sentinel_iff _).mp other)
    · rw [kbData, if_pos ((rowSel_eq_sentinel_iff _).mpr same)]
      exact allRows_getLsbD _ _ _ ((nRows_le_sentinel Config.kbSentinelV12 _).trans (BitVec.isLt _).le) j
  case rows => exact fun v p r => ⟨fun _ => keyRow_existing v p r, keyRow_missing v p r⟩
  case v13 => intro variant; rw [sentinelHere, variant, kbSentinel]
  case v12 =>
    intro variant
    rw [sentinelHere, variant, kbSentinel_v12_toNat]
    exact ⟨rfl, Nat.le_add_right 12 _⟩

/-- The OR of the rows from 0 on, as a fold. -/
theorem allRows_eq_foldl (v : KbVariant) (p : Pins) (n : Nat) : allRows v p n =
    (List.range n).foldl (fun acc r => acc ||| rowData v p (BitVec.ofNat 4 r)) 0#16 := by
  induction n with
  | zero => rfl
  | succ n ih => rw [allRows, ih, List.range_succ, List.foldl_append]; rfl

/-- An existing row's selector is not the sentinel. -/
theorem rowSel_of_existing {r : Nat} (h : r < nRows Config.kbVariant) :
    rowSel (BitVec.ofNat 8 r) = BitVec.ofNat 4 r ∧ rowSel (BitVec.ofNat 8 r) ≠ sentinelHere := by
  have le : nRows Config.kbVariant ≤ sentinelHere.toNat := nRows_le_sentinel _ _
  have lt : sentinelHere.toNat < 16 := sentinelHere.isLt
  have sel : (rowSel (BitVec.ofNat 8 r)).toNat = r := by rw [rowSel_toNat, BitVec.toNat_ofNat]; omega
  refine ⟨BitVec.eq_of_toNat_eq ?_, fun same => ?_⟩
  · rw [sel, BitVec.toNat_ofNat]; omega
  · rw [same] at sel; omega

/-- Settles O52: each row's read is its `rowData`, and the sentinel's is their OR (`allRows_eq_foldl`). -/
theorem sentinelReadIsTheOrOfTheRowReads : Obligations.SentinelReadIsTheOrOfTheRowReads := by
  intro s sentinel
  refine ⟨fun r => rowData Config.kbVariant s.pins (BitVec.ofNat 4 r), fun r existing => ?_, ?_⟩
  · obtain ⟨sel, other⟩ := rowSel_of_existing existing
    have data : kbData Config.kbVariant sentinelHere s.pins (rowSel (BitVec.ofNat 8 r)) =
        rowData Config.kbVariant s.pins (BitVec.ofNat 4 r) := by rw [kbData, if_neg other, sel]
    dsimp only
    rw [← data]
    rfl
  · simp only [exec, execKbRd, kbData, if_pos sentinel, allRows_eq_foldl]
    rfl

end Sys2Proof.Machine

/-! PROOFS. Device reset and the release of the core (spec/70_reset_and_hazards.md section 1). -/

namespace Sys2Proof.Machine

/-- Settles O55: the two parts of device reset, with each rate's period its numeral. -/
theorem deviceResetRestoresBothBlocks : Obligations.DeviceResetRestoresBothBlocks := by
  refine ⟨fun d => by simp [decode], fun s => ⟨_, rfl, ?_, ?_⟩⟩
  · have timer : kbTimerAtReset Config.kbTimerResetState s.now =
        match Config.kbTimerResetState with
        | none => .disarmed
        | some .slow => .armed .slow (s.now + 1 / 32)
        | some .fast => .armed .fast (s.now + 1 / 256)
        | some .active => .armed .active (s.now + 1 / 192) := by
      rcases Config.kbTimerResetState with - | - | - | - <;> simp [kbTimerAtReset]
    simp only [Controller.deviceReset, timer]
    rfl
  · intro start
    rw [start]
    exact ⟨rfl, rfl⟩

/-- Settles O56: the event completes exactly where the hold timer is due. -/
theorem resetReleaseFreesTheCore : Obligations.ResetReleaseFreesTheCore := by
  refine ⟨fun d => by simp [decode], fun s due => exec_evResetRelease_of_due due, fun s notDue => ?_⟩
  cases timer : s.bridge.resetTimer with
  | none => simp [exec, execEvResetRelease, timer]
  | some due =>
    have other : due ≠ s.now := fun same => notDue (timer.trans (congrArg some same))
    simp [exec, execEvResetRelease, timer, other]

end Sys2Proof.Machine
